-- ==== Sys2Proof/Word.lean ====
section
/-! DEFINITION. The word types of the block (spec/00_scope.md R7, R11, R12). Every value is unsigned. -/

namespace Sys2Proof

/-- `u8`: a byte of the wire, a code, a length or a checksum. -/
abbrev Byte := BitVec 8

/-- `bytes`: a finite sequence of bytes, index 0 first on the wire (R12). -/
abbrev Bytes := List Byte

/-- `u16`: a protocol address, a counter identifier or a counters field. -/
abbrev Addr := BitVec 16

/-- `u24`: a CRC value. -/
abbrev Crc := BitVec 24

end Sys2Proof
end

