-- ==== Sys2Proof/Syntax.lean ====
section
/-! DEFINITION. The syntax of the machine: the fields of the wire frame (spec/30_encoding.md Part A), the operation
interface through which the host drives the block (Part B), the command kinds of the catalog
(spec/47_command_catalog.md R118), and `Instr`, one constructor per row of spec/opcode_table.json. -/

namespace Sys2Proof

/-! ## The wire frame (R48, R53, R55) -/

/-- The header fields, bytes 0 to 7 of a frame. -/
structure Header where
  crc    : Crc
  src    : Addr
  dst    : Addr
  length : Byte
deriving DecidableEq, Repr

/-- The body fields: the payload (code and data) and the checksum. -/
structure Body where
  code     : Byte
  data     : Bytes
  checksum : Byte
deriving DecidableEq, Repr

/-- All the fields of a frame, request or response (R56: one format both ways). -/
structure Frame where
  header : Header
  body   : Body
deriving DecidableEq, Repr

/-! ## Values of the command catalog -/

/-- The four meter modes (spec/47_command_catalog.md R124). -/
inductive Mode where
  | normal
  | masterSR
  | slaveSRT
  | slaveSR
deriving DecidableEq, Repr

/-- The Config record (R121): what GetConfig returns and SetConfig sends. -/
structure MeterConfig where
  counters        : Addr
  transparentMode : Bool
  zeroThreshold   : Bool
  mode            : Mode
  dst             : Bool
  plcDisabled     : Bool
deriving DecidableEq, Repr

/-- A command kind with its arguments, "one constructor per command kind" (R116, R118). -/
inductive CommandKind where
  | getNetworkId
  | getConfig
  | setConfig (config : MeterConfig)
  | getLastPacket (counterId : Addr)
  | getHistory (counterId : Addr)
deriving DecidableEq, Repr

/-! ## The operation interface (R59 to R61) -/

/-- The types of the operands of R60, and the Config record a SetConfig call takes. -/
inductive OperandType where
  | u8
  | u16
  | u24
  | bytes
  | config
deriving DecidableEq, Repr

/-- One typed operand value; R61: a value out of the type's range cannot be written. -/
inductive Operand where
  | u8 (v : Byte)
  | u16 (v : Addr)
  | u24 (v : Crc)
  | bytes (s : Bytes)
  | config (c : MeterConfig)
deriving DecidableEq, Repr

/-- What the host issues: a block operation by its 4-bit selector (R60, format OP4 of the table), or a call of a
command kind by the code byte of its frame (R64, format FRAME_CODE). The two code spaces overlap, so an issue says
which of the two it is (DESIGN CHOICE, log 1). -/
inductive Issue where
  | op (selector : BitVec 4) (operands : List Operand)
  | call (code : Byte) (arguments : List Operand)
deriving DecidableEq, Repr

/-- One constructor per row of spec/opcode_table.json, in the table's order but for the five rows `reserved`. -/
inductive Instr where
  /-- `CRC24`, selector 0x1. -/
  | crc24 (s : Bytes)
  /-- `CSUM`, selector 0x2. -/
  | csum (s : Bytes)
  /-- `RECON`, selector 0x3. -/
  | recon (base : BitVec 16) (inc : Byte) (check : Byte)
  /-- `LDADDR`, selector 0x4. -/
  | ldaddr (src : Addr) (dst : Addr)
  /-- `RDADDR`, selector 0x5. -/
  | rdaddr
  /-- `COMPOSE`, selector 0x6. -/
  | compose (code : Byte) (data : Bytes)
  /-- `HDR`, selector 0x7. -/
  | hdr (h : Bytes)
  /-- `BODY`, selector 0x8. -/
  | body (length : Byte) (b : Bytes)
  /-- `SRCMATCH`, selector 0x9. -/
  | srcmatch (src : Addr)
  /-- `PARSE`, selector 0xA. -/
  | parse (crc : Crc) (src : Addr) (dst : Addr) (length : Byte) (code : Byte) (data : Bytes) (checksum : Byte)
  /-- `RDRESP`, selector 0xB. -/
  | rdresp
  /-- `reserved`, selector 0x0. -/
  | reserved0
  /-- `reserved`, selector 0xC. -/
  | reservedC
  /-- `reserved`, selector 0xD. -/
  | reservedD
  /-- `reserved`, selector 0xE. -/
  | reservedE
  /-- `reserved`, selector 0xF. -/
  | reservedF
  /-- `GetNetworkID`, code byte 0x86. -/
  | getNetworkId
  /-- `GetConfig`, code byte 0x80. -/
  | getConfig
  /-- `SetConfig`, code byte 0x00. -/
  | setConfig (config : MeterConfig)
  /-- `GetLastPacket`, code byte 0x82. -/
  | getLastPacket (counterId : Addr)
  /-- `GetHistory`, code byte 0x85. -/
  | getHistory (counterId : Addr)
deriving DecidableEq, Repr

end Sys2Proof
end

