-- ==== Sys2Proof/Config.lean ====
section
/-! DEFINITION. What is fixed for the machine: the constants of spec/00_scope.md R8, the open parameters of R10, and
the values the spec leaves unspecified at reset. An open or unspecified value is an opaque constant: no proof can see
what it is. -/

namespace Sys2Proof.Config

/-! ## Fixed constants (R8, taken verbatim from the spec's table) -/

/-- `CRC_INIT`. -/
def crcInit : Nat := 0x00B704CE

/-- `CRC_POLY`. -/
def crcPoly : Nat := 0x01864CFB

/-- `CRC_TOP`, bit 24. -/
def crcTop : Nat := 0x1000000

/-- `CSUM_BIAS`, subtracted. -/
def csumBias : Nat := 1

/-- `BROADCAST`, the broadcast sentinel. -/
def broadcast : Addr := 0x2FFF#16

/-- The lower end of the open discovery interval. -/
def discoveryLow : Addr := 0x2F00#16

/-- The upper end of the open discovery interval. -/
def discoveryHigh : Addr := 0x2FFF#16

/-- The header size in bytes. -/
def headerSize : Nat := 8

/-- The most receive attempts of one exchange (host). -/
def maxAttempts : Nat := 5

/-- The most data bytes of a payload: the length byte counts the code byte too (R9). -/
def maxData : Nat := 254

/-! ## Open parameters (R10) -/

/-- `RTABLE_HI`: the high byte of each redundancy-table entry. No source lists it (log 6). -/
opaque rtableHi : Fin 256 → Byte

/-- `MASTER_ADDR`: the master's own address (log 8). -/
opaque masterAddr : Addr

/-- The destination of the first exchange, which "the caller supplies" (48_host_session.md R137; log 8). -/
opaque firstDst : Addr

/-- `READ_TIMEOUT`, a duration. No rule reads it (93_implementation_defined.md I10). -/
opaque readTimeout : Nat

/-- `WRITE_TIMEOUT`, a duration. No rule reads it (93_implementation_defined.md I10). -/
opaque writeTimeout : Nat

/-- The spec's default of `MODE_TABLE`: the order of the enum (47_command_catalog.md R124; log 7). -/
def modeTableDefault : Vector Mode 4 := #v[.normal, .masterSR, .slaveSRT, .slaveSR]

/-- The spec's default of `SETCONFIG_ACK_CODE` (47_command_catalog.md R123; log 7). -/
def setConfigAckDefault : Byte := 0x80#8

/-! ## Unspecified at reset (70_reset_and_hazards.md R166: "unspecified"; log 5) -/

/-- What `SRC` holds after reset. -/
opaque resetSrc : Addr

/-- What `DST` holds after reset. -/
opaque resetDst : Addr

end Sys2Proof.Config
end

