-- ==== Sys2Proof/Machine/State.lean ====
section
/-! DEFINITION. The state of the machine as plain data: the block's architectural state (spec/10_state.md R19), the
host model's state (spec/48_host_session.md), the model's own input and output fields, and the reasons a step stops. -/

namespace Sys2Proof.Machine

/-! ## Error causes (60_exceptions.md R151) -/

/-- Which address register was read while its flag was false ("which register is unset"; log 13). -/
inductive UnsetRegister where
  | src
  | dst
  | both
deriving DecidableEq, Repr

/-- The expected count a FramingError records: a number, or "multiple of 11" (47_command_catalog.md R128). -/
inductive ExpectedCount where
  | exactly (n : Nat)
  | multipleOf (n : Nat)
deriving DecidableEq, Repr

/-- A failure of the Transport: "timeout or connection fault" (48_host_session.md R144), or another I/O failure of
the collaborator, by a number of its own (log 19). -/
inductive TransportError where
  | timeout
  | connectionFault
  | other (reason : Nat)
deriving DecidableEq, Repr

/-- The cause table of R151, with the information its last column records. -/
inductive Cause where
  | crcMismatch (expected actual : Crc)
  | checksumMismatch (expected actual : Byte)
  | addressMismatch (expected actual : Addr)
  | framingError (expected : ExpectedCount) (actual : Nat)
  /-- `actual` is `none` only where no response code is stored. -/
  | decodeError (expected : Nat) (actual : Option Nat)
  | noResponse
  | retryLimitExceeded
  | transportFault (error : TransportError)
  | addressUnset (which : UnsetRegister)
  | payloadTooLong (length : Nat)
  | illegalOperation (selector : BitVec 4)
deriving DecidableEq, Repr

/-! ## Results (30_encoding.md R59, R60) -/

/-- A calendar date and time (47_command_catalog.md R130). -/
structure DateTime where
  year   : Nat
  month  : Nat
  day    : Nat
  hour   : Nat
  minute : Nat
deriving DecidableEq, Repr

/-- A history record (47_command_catalog.md R132). -/
structure HistoryRecord where
  level : Byte
  type  : Byte
  value : Option (BitVec 32)
  date  : Option DateTime
deriving DecidableEq, Repr

/-- The decoded result of a command kind (47_command_catalog.md R120 to R129). -/
inductive Decoded where
  | networkId (id : Addr)
  | config (c : MeterConfig)
  | lastPacket (packet : Option (Addr × HistoryRecord))
  | history (records : List HistoryRecord)
deriving DecidableEq, Repr

/-- The typed outputs of an operation that ends `ok` (R60), and the result of an exchange (48_host_session.md R136). -/
inductive Output where
  | crc24 (c : Crc) (wire : Bytes)
  | csum (k : Byte)
  | recon (value : Option (BitVec 32))
  | addresses (src dst : Addr)
  | frame (f : Bytes)
  | header (h : Header)
  | body (b : Body)
  | matched (verdict : Bool)
  | response (code : Option Byte) (data : Option Bytes)
  | decoded (d : Decoded)
  /-- The output `()` of LDADDR and PARSE. -/
  | unit
deriving DecidableEq, Repr

/-- "The result is either `ok` with typed outputs or one raised error cause" (R59). -/
inductive Result where
  | ok (output : Output)
  | raise (cause : Cause)
deriving DecidableEq, Repr

/-! ## The Transport (48_host_session.md R144, R146) -/

/-- A failed Transport call. The spec says neither whether the line is still open after it nor how much of a failed
write went out, so the failure says both (DESIGN CHOICE, log 25). -/
structure LineFailure where
  error      : TransportError
  /-- `is_open()` is false afterwards. -/
  closesLine : Bool
  /-- How many bytes of a failed write went out. No other call looks at it. -/
  sent       : Nat
deriving DecidableEq, Repr

/-- The outcome of an `open`, `configure`, `flush` or `write` call. -/
inductive CallOutcome where
  | done
  | failed (failure : LineFailure)
deriving DecidableEq, Repr

/-- What a `read(n)` call returns: the first `count` unread bytes (all of them where there are fewer), or an error. A
`count` of `n`, of 0 or of another number gives the outcomes of R146. -/
inductive ReadReturn where
  | count (n : Nat)
  | failed (failure : LineFailure)
deriving DecidableEq, Repr

/-- What happens in one `read(n)` call: the bytes that reach the line's buffer during it, and what it returns. -/
structure ReadOutcome where
  arrived : Bytes
  returns : ReadReturn
deriving DecidableEq, Repr

/-- One call the host made. -/
inductive TransportCall where
  | openLine
  | configure
  | flush
  | write (b : Bytes)
  | read (size : Nat)
deriving DecidableEq, Repr

/-- The Transport as the host sees it: its flags and its two buffers (R144 "unread/unwritten buffered bytes"). What it
will do is an input: the outcomes of the calls still to come, oldest first. A call beyond the list succeeds; in a read
beyond the list nothing arrives (log 10). -/
structure Transport where
  isOpen     : Bool
  configured : Bool
  /-- The bytes that have arrived and are not read yet, oldest first. -/
  incoming   : Bytes
  /-- The bytes of failed writes that did not go out, oldest first. -/
  unwritten  : Bytes
  calls      : List CallOutcome
  reads      : List ReadOutcome
  /-- The calls made so far, oldest first: a history that no step reads (log 17). -/
  log        : List TransportCall
deriving DecidableEq, Repr

/-! ## The state -/

/-- The state of the machine. -/
structure State where
  /-- `SRC` (10_state.md R21). -/
  src         : Addr
  /-- `SRC_SET` (R21). -/
  srcSet      : Bool
  /-- `DST` (R22). -/
  dst         : Addr
  /-- `DST_SET` (R22). -/
  dstSet      : Bool
  /-- `RESP_CODE` (R25). -/
  respCode    : Option Byte
  /-- `RESP_DATA` (R25). -/
  respData    : Option Bytes
  /-- `RTABLE`, held as the high byte of each entry: the low byte of entry `i` is `i` (R27, R28; log 6). -/
  rtableHi    : Vector Byte 256
  /-- `MODE_TABLE`, a parameter of the host (47_command_catalog.md R124; log 7). -/
  modeTable   : Vector Mode 4
  /-- `SETCONFIG_ACK_CODE`, a parameter of the host (47_command_catalog.md R123; log 7). -/
  setConfigAck : Byte
  /-- The session's source address (48_host_session.md R137). -/
  sessSrc     : Addr
  /-- The session's destination address (48_host_session.md R137). -/
  sessDst     : Addr
  /-- The Transport (48_host_session.md R144). -/
  transport   : Transport
  /-- The operations issued and not yet taken, oldest first (the model's own field; log 1). -/
  pending     : List Issue
  /-- The result of the latest operation (the model's own field; log 2). -/
  result      : Option Result
deriving DecidableEq, Repr

/-- Why the machine stops with a fault. -/
inductive Fault where
  /-- `AddressUnset` (10_state.md R23, 60_exceptions.md R152): RDADDR, COMPOSE, SRCMATCH or PARSE read `SRC` or `DST`
  while its flag was false, "a fault outcome that no later step clears". Safe: the model stops. -/
  | addressUnset (which : UnsetRegister)
deriving DecidableEq, Repr

/-- Why an issue has no meaning. -/
inductive Refusal where
  /-- An arm of `exec` that has no meaning yet. Safe. No arm is left so. -/
  | notModelled (mnemonic : String)
  /-- `step`: the operands issued beside a block operation's selector are not those of its row in
  30_encoding.md R60, which "cannot be written" (R61; log 15). Safe. -/
  | malformedOperation (selector : BitVec 4)
  /-- `step`: the arguments of a command kind are not those the catalog gives it (log 15). Safe. -/
  | malformedCall (code : Byte)
  /-- `step`: a call of a code that is none of the catalog's five (47_command_catalog.md R118; log 15). Safe. -/
  | unknownCommand (code : Byte)
deriving DecidableEq, Repr

/-- The Transport at reset: closed, its buffers empty, nothing to come, nothing called (DESIGN CHOICE, log 11, log 17,
log 25). -/
def Transport.reset : Transport :=
  { isOpen := false, configured := false, incoming := [], unwritten := [], calls := [], reads := [], log := [] }

/-- The machine right after reset (70_reset_and_hazards.md R166). `SRC` and `DST` are unspecified (log 5), `RTABLE` is
the open parameter (log 6), the session addresses are the host's parameters (log 8). -/
def State.reset : State :=
  { src := Config.resetSrc
    srcSet := false
    dst := Config.resetDst
    dstSet := false
    respCode := none
    respData := none
    rtableHi := Vector.ofFn Config.rtableHi
    modeTable := Config.modeTableDefault
    setConfigAck := Config.setConfigAckDefault
    sessSrc := Config.masterAddr
    sessDst := Config.firstDst
    transport := Transport.reset
    pending := []
    result := none }

end Sys2Proof.Machine
end

