-- ==== Sys2Proof/Machine/Flags.lean ====
section
/-! DEFINITION. The block's only flags, `SRC_SET` and `DST_SET` (spec/10_state.md R32), and the guarded reads of `SRC`
and `DST`: no operation reads either in another way (R23). -/

namespace Sys2Proof.Machine

/-- Read `DST` (R22, R23). -/
def readDst (s : State) : Except Cause Addr :=
  if s.dstSet then .ok s.dst else .error (.addressUnset .dst)

/-- Read `SRC` and `DST` together (spec/42_frame_composer.md R90, R93: "if not SRC_SET or not DST_SET"). -/
def readAddresses (s : State) : Except Cause (Addr × Addr) :=
  match s.srcSet, s.dstSet with
  | true, true => .ok (s.src, s.dst)
  | false, true => .error (.addressUnset .src)
  | true, false => .error (.addressUnset .dst)
  | false, false => .error (.addressUnset .both)

end Sys2Proof.Machine
end

