-- ==== Sys2Proof/WellFormed.lean ====
section
/-! DEFINITION. When an issue is well formed: its operands are the typed operands its selector's row (or its command
kind) takes, spec/30_encoding.md R60 and spec/47_command_catalog.md R118. `Instr` itself needs no check: every operand
is a value of its type (R61), and R61 puts no length limit on a byte sequence. -/

namespace Sys2Proof

/-- The type of an operand. -/
def Operand.type : Operand → OperandType
  | .u8 _ => .u8
  | .u16 _ => .u16
  | .u24 _ => .u24
  | .bytes _ => .bytes
  | .config _ => .config

/-- The operand types of a selector's row in R60; `none` for a reserved selector, whose issue raises whatever stands
beside it (R62; DESIGN CHOICE, log 14). -/
def operandTypes (selector : BitVec 4) : Option (List OperandType) :=
  match selector.toNat with
  | 0x1 => some [.bytes]
  | 0x2 => some [.bytes]
  | 0x3 => some [.u16, .u8, .u8]
  | 0x4 => some [.u16, .u16]
  | 0x5 => some []
  | 0x6 => some [.u8, .bytes]
  | 0x7 => some [.bytes]
  | 0x8 => some [.u8, .bytes]
  | 0x9 => some [.u16]
  | 0xA => some [.u24, .u16, .u16, .u8, .u8, .bytes, .u8]
  | 0xB => some []
  | _ => none

/-- The argument types of a command kind, by its code byte; `none` where the catalog has no such kind. -/
def argumentTypes (code : Byte) : Option (List OperandType) :=
  match code.toNat with
  | 0x86 => some []
  | 0x80 => some []
  | 0x00 => some [.config]
  | 0x82 => some [.u16]
  | 0x85 => some [.u16]
  | _ => none

/-- An issue is well formed: its selector or code exists and its operands have the types of that row. -/
def Issue.wellFormed : Issue → Bool
  | .op selector operands =>
    match operandTypes selector with
    | some types => operands.map Operand.type == types
    | none => true
  | .call code arguments =>
    match argumentTypes code with
    | some types => arguments.map Operand.type == types
    | none => false

end Sys2Proof
end

