-- ==== Sys2Proof/Decode.lean ====
section
/-! DEFINITION. The two encodings of the spec, each with its decoder and its encoder: the wire frame
(spec/30_encoding.md Part A: field extraction R48, R55, byte order R36, R37) and the issue of an operation
(Part B: selector map R60, R64). -/

namespace Sys2Proof

/-! ## Byte order (00_scope.md R12, 20_memory.md R36, R37) -/

/-- `LE16(v)`: bits 7:0 first. -/
def le16 (v : BitVec 16) : Bytes := [v.extractLsb' 0 8, v.extractLsb' 8 8]

/-- `LE24(v)`: bits 7:0, then 15:8, then 23:16. -/
def le24 (v : BitVec 24) : Bytes := [v.extractLsb' 0 8, v.extractLsb' 8 8, v.extractLsb' 16 8]

/-- `fromLE16([a, b]) = a + 256*b`. -/
def fromLe16 (a b : Byte) : BitVec 16 := BitVec.ofNat 16 (a.toNat + 256 * b.toNat)

/-- `fromLE24([a, b, c]) = a + 256*b + 65536*c`. -/
def fromLe24 (a b c : Byte) : BitVec 24 := BitVec.ofNat 24 (a.toNat + 256 * b.toNat + 65536 * c.toNat)

/-! ## Part A: the wire frame -/

/-- The fields of a header (R98); `none` unless there are exactly 8 bytes. -/
def decodeHeader : Bytes → Option Header
  | [c0, c1, c2, s0, s1, d0, d1, l] => some ⟨fromLe24 c0 c1 c2, fromLe16 s0 s1, fromLe16 d0 d1, l⟩
  | _ => none

/-- The fields of a body: the code byte first, the checksum last, the data between (R99); `none` below 2 bytes. -/
def decodeBody : Bytes → Option Body
  | [] => none
  | code :: rest =>
    match rest.getLast? with
    | some checksum => some ⟨code, rest.dropLast, checksum⟩
    | none => none

/-- A whole frame, in the receiver's order (R53, R54): 8 bytes of header, then the `length + 1` bytes of the body;
`none` where the byte count is not the one the length byte gives, or the length byte is 0 (R57). -/
def decodeFrame (f : Bytes) : Option Frame :=
  match decodeHeader (f.take 8) with
  | none => none
  | some h =>
    if (f.drop 8).length = h.length.toNat + 1 ∧ h.length ≠ 0 then
      match decodeBody (f.drop 8) with
      | some b => some ⟨h, b⟩
      | none => none
    else none

/-- The five header bytes the CRC covers (R51): `src(LE16) ++ dst(LE16) ++ length(u8)`. -/
def crcCoverage (src dst : Addr) (length : Byte) : Bytes := le16 src ++ le16 dst ++ [length]

/-- The bytes of a header (R48). -/
def encodeHeader (h : Header) : Bytes := le24 h.crc ++ crcCoverage h.src h.dst h.length

/-- The bytes of a body (R48). -/
def encodeBody (b : Body) : Bytes := b.code :: b.data ++ [b.checksum]

/-- The bytes of a frame (R48): `crc24[3] | src[2] | dst[2] | length[1] | code[1] | data[length-1] | checksum[1]`. -/
def encodeFrame (f : Frame) : Bytes := encodeHeader f.header ++ encodeBody f.body

/-- A frame whose length byte counts its payload (R50). -/
def Frame.lengthAgrees (f : Frame) : Bool := f.header.length.toNat == 1 + f.body.data.length

/-! ## Part B: the issue of an operation -/

/-- Why the decoder gives no instruction (log 15). -/
inductive IssueError where
  /-- The operands of a block operation are not those of its row in R60. -/
  | operands (selector : BitVec 4)
  /-- The arguments of a command kind are not those the catalog gives it. -/
  | arguments (code : Byte)
  /-- The catalog has no command kind with this code (R58, R118: five codes). -/
  | unknownCommand (code : Byte)
deriving DecidableEq, Repr

/-- A block operation from its selector and operands (R60, R64): each of the 16 selectors is one row. -/
def decodeOp (selector : BitVec 4) (operands : List Operand) : Except IssueError Instr :=
  match selector.toNat with
  | 0x0 => .ok .reserved0
  | 0x1 => match operands with
    | [.bytes s] => .ok (.crc24 s)
    | _ => .error (.operands selector)
  | 0x2 => match operands with
    | [.bytes s] => .ok (.csum s)
    | _ => .error (.operands selector)
  | 0x3 => match operands with
    | [.u16 base, .u8 inc, .u8 check] => .ok (.recon base inc check)
    | _ => .error (.operands selector)
  | 0x4 => match operands with
    | [.u16 src, .u16 dst] => .ok (.ldaddr src dst)
    | _ => .error (.operands selector)
  | 0x5 => match operands with
    | [] => .ok .rdaddr
    | _ => .error (.operands selector)
  | 0x6 => match operands with
    | [.u8 code, .bytes data] => .ok (.compose code data)
    | _ => .error (.operands selector)
  | 0x7 => match operands with
    | [.bytes h] => .ok (.hdr h)
    | _ => .error (.operands selector)
  | 0x8 => match operands with
    | [.u8 length, .bytes b] => .ok (.body length b)
    | _ => .error (.operands selector)
  | 0x9 => match operands with
    | [.u16 src] => .ok (.srcmatch src)
    | _ => .error (.operands selector)
  | 0xA => match operands with
    | [.u24 crc, .u16 src, .u16 dst, .u8 length, .u8 code, .bytes data, .u8 checksum] =>
      .ok (.parse crc src dst length code data checksum)
    | _ => .error (.operands selector)
  | 0xB => match operands with
    | [] => .ok .rdresp
    | _ => .error (.operands selector)
  | 0xC => .ok .reservedC
  | 0xD => .ok .reservedD
  | 0xE => .ok .reservedE
  | _ => .ok .reservedF

/-- A command kind from its code byte and arguments (R58, R118). -/
def decodeCall (code : Byte) (arguments : List Operand) : Except IssueError Instr :=
  match code.toNat with
  | 0x86 => match arguments with
    | [] => .ok .getNetworkId
    | _ => .error (.arguments code)
  | 0x80 => match arguments with
    | [] => .ok .getConfig
    | _ => .error (.arguments code)
  | 0x00 => match arguments with
    | [.config c] => .ok (.setConfig c)
    | _ => .error (.arguments code)
  | 0x82 => match arguments with
    | [.u16 counterId] => .ok (.getLastPacket counterId)
    | _ => .error (.arguments code)
  | 0x85 => match arguments with
    | [.u16 counterId] => .ok (.getHistory counterId)
    | _ => .error (.arguments code)
  | _ => .error (.unknownCommand code)

/-- The decoder: total on every issue, rejecting by name. -/
def decode : Issue → Except IssueError Instr
  | .op selector operands => decodeOp selector operands
  | .call code arguments => decodeCall code arguments

/-- The encoder, from the same map (R60, R118). -/
def encode : Instr → Issue
  | .crc24 s => .op 0x1 [.bytes s]
  | .csum s => .op 0x2 [.bytes s]
  | .recon base inc check => .op 0x3 [.u16 base, .u8 inc, .u8 check]
  | .ldaddr src dst => .op 0x4 [.u16 src, .u16 dst]
  | .rdaddr => .op 0x5 []
  | .compose code data => .op 0x6 [.u8 code, .bytes data]
  | .hdr h => .op 0x7 [.bytes h]
  | .body length b => .op 0x8 [.u8 length, .bytes b]
  | .srcmatch src => .op 0x9 [.u16 src]
  | .parse crc src dst length code data checksum =>
    .op 0xA [.u24 crc, .u16 src, .u16 dst, .u8 length, .u8 code, .bytes data, .u8 checksum]
  | .rdresp => .op 0xB []
  | .reserved0 => .op 0x0 []
  | .reservedC => .op 0xC []
  | .reservedD => .op 0xD []
  | .reservedE => .op 0xE []
  | .reservedF => .op 0xF []
  | .getNetworkId => .call 0x86 []
  | .getConfig => .call 0x80 []
  | .setConfig c => .call 0x00 [.config c]
  | .getLastPacket counterId => .call 0x82 [.u16 counterId]
  | .getHistory counterId => .call 0x85 [.u16 counterId]

/-! ## A word of spec/opcode_table.json as an issue (log 16) -/

/-- The zero operand of a type: what an operand word of zeros stands for. -/
def OperandType.zero : OperandType → Operand
  | .u8 => .u8 0
  | .u16 => .u16 0
  | .u24 => .u24 0
  | .bytes => .bytes []
  | .config => .config ⟨0, false, false, .normal, false, false⟩

/-- The issue a word of the table stands for, its operands zero. A row FRAME_CODE matches all 8 bits (mask 0xFF), a
row OP4 the low 4 bits (mask 0xF): the narrower match is taken first. A word of 4 bits or fewer is a selector. -/
def issueOfTableWord (nbits w : Nat) : Issue :=
  let code : Byte := BitVec.ofNat 8 w
  let selector : BitVec 4 := BitVec.ofNat 4 w
  let op : Issue := .op selector (((operandTypes selector).getD []).map OperandType.zero)
  if nbits ≤ 4 then op
  else
    match argumentTypes code with
    | some types => .call code (types.map OperandType.zero)
    | none => op

/-- The instruction the decoder reads from a word of the table. -/
def decodeTableWord (nbits w : Nat) : Option Instr :=
  match decode (issueOfTableWord nbits w) with
  | .ok i => some i
  | .error _ => none

/-! ## The written form of an operation (00_scope.md R15, 30_encoding.md R60, 92_eei_decisions.md D19) -/

/-- The mnemonic, as spec/opcode_table.json spells it. -/
def mnemonic : Instr → String
  | .crc24 _ => "CRC24"
  | .csum _ => "CSUM"
  | .recon _ _ _ => "RECON"
  | .ldaddr _ _ => "LDADDR"
  | .rdaddr => "RDADDR"
  | .compose _ _ => "COMPOSE"
  | .hdr _ => "HDR"
  | .body _ _ => "BODY"
  | .srcmatch _ => "SRCMATCH"
  | .parse _ _ _ _ _ _ _ => "PARSE"
  | .rdresp => "RDRESP"
  | .reserved0 => "reserved"
  | .reservedC => "reserved"
  | .reservedD => "reserved"
  | .reservedE => "reserved"
  | .reservedF => "reserved"
  | .getNetworkId => "GetNetworkID"
  | .getConfig => "GetConfig"
  | .setConfig _ => "SetConfig"
  | .getLastPacket _ => "GetLastPacket"
  | .getHistory _ => "GetHistory"

/-- One hexadecimal digit, in capitals. -/
def hexDigit (n : Nat) : Char :=
  if n % 16 < 10 then Char.ofNat (48 + n % 16) else Char.ofNat (55 + n % 16)

/-- The last `k` hexadecimal digits of `n`, most significant first. -/
def hexDigits (n : Nat) : Nat → List Char
  | 0 => []
  | k + 1 => hexDigits (n / 16) k ++ [hexDigit n]

/-- `0x` and the digits. -/
def hexText (digits n : Nat) : List Char := '0' :: 'x' :: hexDigits n digits

/-- The bytes of a sequence in hex, one space between two. -/
def bytesText : Bytes → List Char
  | [] => []
  | [b] => hexDigits b.toNat 2
  | b :: c :: rest => hexDigits b.toNat 2 ++ ' ' :: bytesText (c :: rest)

/-- An operand as R60 writes it: numbers in hex, a byte sequence as `[b0 b1 ...]` (no block operation takes a Config
record). -/
def operandText : Operand → List Char
  | .u8 v => hexText 2 v.toNat
  | .u16 v => hexText 4 v.toNat
  | .u24 v => hexText 6 v.toNat
  | .bytes s => '[' :: bytesText s ++ [']']
  | .config _ => []

/-- Operands joined by a comma and a space. -/
def operandsText : List Operand → List Char
  | [] => []
  | [a] => operandText a
  | a :: b :: rest => operandText a ++ ',' :: ' ' :: operandsText (b :: rest)

/-- `MNEMONIC operand, operand, ...` of a block operation (R15, R60); `none` for a command kind, which has no such
form (digits: log 24). -/
def assembly (i : Instr) : Option (List Char) :=
  match encode i with
  | .op _ [] => some (mnemonic i).toList
  | .op _ operands => some ((mnemonic i).toList ++ ' ' :: operandsText operands)
  | .call _ _ => none

end Sys2Proof
end

