-- ==== Sys2Proof/Machine/Operands.lean ====
section
/-! DEFINITION. Byte-sequence operands and what the operations check of them (spec/30_encoding.md R61): the header
read and the body read of the receiver, and the request payload of the composer. -/

namespace Sys2Proof.Machine

/-- The payload: "request_code byte followed by payload bytes" (42_frame_composer.md R91). -/
def payload (code : Byte) (data : Bytes) : Bytes := code :: data

/-- The checks and fields of a header read (43_frame_parser.md R97): no bytes, a count other than 8, the fields. -/
def extractHeader (h : Bytes) : Except Cause Header :=
  if h.length = 0 then .error .noResponse
  else
    match decodeHeader h with
    | some fields => .ok fields
    | none => .error (.framingError (.exactly Config.headerSize) h.length)

/-- The checks and fields of a body read (43_frame_parser.md R99): the count first, then length zero, the fields. -/
def extractBody (length : Byte) (b : Bytes) : Except Cause Body :=
  if b.length ≠ length.toNat + 1 then .error (.framingError (.exactly (length.toNat + 1)) b.length)
  else
    match decodeBody b with
    | some fields => .ok fields
    | none => .error (.framingError (.exactly 1) 0)

end Sys2Proof.Machine
end

