-- ==== Sys2Proof/Machine/Primitives.lean ====
section
/-! DEFINITION. The pure computations of the block: CRC-24 and the byte-sum checksum
(spec/40_checksum_primitives.md R70, R75), the table read (spec/20_memory.md R35) and the redundancy-code validator
(spec/41_value_reconstruction.md R82). -/

namespace Sys2Proof.Machine

/-- One of the 8 iterations of R70: shift left by 1; if bit 24 is set, exclusive-or the polynomial in. -/
def crcShift (c : Nat) : Nat :=
  let shifted := c <<< 1
  if shifted &&& Config.crcTop ≠ 0 then shifted ^^^ Config.crcPoly else shifted

/-- `n` iterations of `crcShift`. -/
def crcShifts : Nat → Nat → Nat
  | 0, c => c
  | n + 1, c => crcShifts n (crcShift c)

/-- The loop body of R70 for one byte: the byte into bits 23:16, 8 iterations, the mask. -/
def crcByte (c : Nat) (b : Byte) : Nat := crcShifts 8 (c ^^^ (b.toNat <<< 16)) &&& 0xFFFFFF

/-- The loop of R70 started from `c` (R80): the bytes in sequence order. -/
def crcFrom (c : Nat) : Bytes → Nat
  | [] => c
  | b :: rest => crcFrom (crcByte c b) rest

/-- `crc24` (R70). -/
def crc24 (s : Bytes) : Crc := BitVec.ofNat 24 (crcFrom Config.crcInit s &&& 0xFFFFFF)

/-- The sum of the bytes, unbounded. -/
def byteSum : Bytes → Nat
  | [] => 0
  | b :: rest => b.toNat + byteSum rest

/-- `checksum` (R75): `(t - 1) mod 256`, taken in 0..255, so that the empty sum gives 0xFF. -/
def checksum (s : Bytes) : Byte := BitVec.ofInt 8 ((byteSum s : Int) - Config.csumBias)

/-- `RomRead(i)` (20_memory.md R35): `RTABLE[i] = RTABLE_HI(i) * 256 + i` (10_state.md R27). -/
def romRead (rtableHi : Vector Byte 256) (i : Byte) : BitVec 16 :=
  BitVec.ofNat 16 ((rtableHi[i.toFin]).toNat * 256 + i.toNat)

/-- `reconstruct` (R82): `Some (base + inc)`, an exact sum, exactly when the table holds `check * 256 + inc`. -/
def reconstruct (rtableHi : Vector Byte 256) (base : BitVec 16) (inc check : Byte) : Option (BitVec 32) :=
  if romRead rtableHi inc = BitVec.ofNat 16 (check.toNat * 256 + inc.toNat) then
    some (base.setWidth 32 + inc.setWidth 32)
  else none

end Sys2Proof.Machine
end

