-- ==== Sys2Proof/Machine/Ops.lean ====
section
/-! DEFINITION. The named operations over the registers, each defined once: the block's instructions and the host's
exchange (Machine/Session.lean) both call them. At the end, how an operation's result is reported: the one shared form
of raising an error (spec/60_exceptions.md R154, R155). -/

namespace Sys2Proof.Machine

/-- `LDADDR` (42_frame_composer.md R89): both addresses, both flags, and a fresh Command's empty response. -/
def loadAddresses (s : State) (src dst : Addr) : State :=
  { s with src := src, srcSet := true, dst := dst, dstSet := true, respCode := none, respData := none }

/-- `COMPOSE` (R93): the addresses, then the length limit (R94), then the frame. It writes nothing (R95). -/
def composeFrame (s : State) (code : Byte) (data : Bytes) : Except Cause Bytes :=
  match readAddresses s with
  | .error c => .error c
  | .ok (src, dst) =>
    if data.length > Config.maxData then .error (.payloadTooLong data.length)
    else
      let length : Byte := BitVec.ofNat 8 (payload code data).length
      .ok (le24 (crc24 (crcCoverage src dst length)) ++ crcCoverage src dst length ++ payload code data ++
        [checksum (payload code data)])

/-- Address discovery (43_frame_parser.md R105): the destination is the broadcast sentinel and the source lies
strictly between the two ends of the interval. -/
def discovers (dst src : Addr) : Bool :=
  dst == Config.broadcast && decide (Config.discoveryLow < src) && decide (src < Config.discoveryHigh)

/-- `SRCMATCH` (R103): discovery may replace `DST`; the verdict compares with the possibly updated `DST` (R104). -/
def matchSource (s : State) (src : Addr) : Except Cause (State × Bool) :=
  match readDst s with
  | .error c => .error c
  | .ok dst =>
    if discovers dst src then .ok ({ s with dst := src }, true) else .ok (s, src == dst)

/-- The checks of `PARSE` in the order of R108 and 60_exceptions.md R156; `ok` writes nothing yet. -/
def checkResponse (s : State) (f : Frame) : Except Cause Unit :=
  match readDst s with
  | .error c => .error c
  | .ok dst =>
    let actual := 1 + f.body.data.length
    let crc := crc24 (crcCoverage f.header.src f.header.dst f.header.length)
    let sum := checksum (payload f.body.code f.body.data)
    if f.header.length.toNat ≠ actual then .error (.framingError (.exactly f.header.length.toNat) actual)
    else if crc ≠ f.header.crc then .error (.crcMismatch crc f.header.crc)
    else if sum ≠ f.body.checksum then .error (.checksumMismatch sum f.body.checksum)
    else if dst = Config.broadcast ∨ dst = f.header.src then .ok ()
    else .error (.addressMismatch dst f.header.src)

/-- The role swap and the store of an accepted response (R110). -/
def acceptResponse (s : State) (f : Frame) : State :=
  { s with
    src := f.header.dst, srcSet := true, dst := f.header.src, dstSet := true
    respCode := some f.body.code, respData := some f.body.data }

/-- `PARSE` (R108): all or nothing (R114). -/
def parseResponse (s : State) (f : Frame) : Except Cause State :=
  match checkResponse s f with
  | .error c => .error c
  | .ok () => .ok (acceptResponse s f)

/-! ## Reporting a result (60_exceptions.md R152, R154, R155) -/

/-- Raise an error out of a state: the cause is the operation's result and the next operation is accepted at once
(R154, R158), but `AddressUnset` is the fault no later step clears (R152). -/
def raise (s : State) : Cause → Host.Outcome State Fault Refusal
  | .addressUnset which => .fault (.addressUnset which)
  | c => .next { s with result := some (.raise c) }

/-- Complete an operation: what it leaves in the state together with its outputs. -/
def complete (s : State) (output : Output) : Host.Outcome State Fault Refusal :=
  .next { s with result := some (.ok output) }

/-- Report an operation that changes no register: its outputs, or its error. -/
def report (s : State) : Except Cause Output → Host.Outcome State Fault Refusal
  | .ok output => complete s output
  | .error c => raise s c

/-- Report an operation that may write registers: "all its results and state updates or raises and writes nothing"
(20_memory.md R42). -/
def reportWrite (s : State) : Except Cause (State × Output) → Host.Outcome State Fault Refusal
  | .ok (t, output) => complete t output
  | .error c => raise s c

end Sys2Proof.Machine
end

