-- ==== Sys2Proof/Machine/Checksum.lean ====
section
/-! DEFINITION. The checksum primitives as operations: CRC24 and CSUM (spec/40_checksum_primitives.md). -/

namespace Sys2Proof.Machine

/-- `CRC24 s -> (c, LE24(c))` (R73). -/
def execCrc24 (s : Bytes) (st : State) : Host.Outcome State Fault Refusal :=
  complete st (.crc24 (crc24 s) (le24 (crc24 s)))

/-- `CSUM s -> (k)` (R76). -/
def execCsum (s : Bytes) (st : State) : Host.Outcome State Fault Refusal :=
  complete st (.csum (checksum s))

end Sys2Proof.Machine
end

