-- ==== Sys2Proof/Machine/Composer.lean ====
section
/-! DEFINITION. The address registers and the frame composer (spec/42_frame_composer.md). -/

namespace Sys2Proof.Machine

/-- `LDADDR src, dst -> ()` (R89). -/
def execLdaddr (src dst : Addr) (st : State) : Host.Outcome State Fault Refusal :=
  complete (loadAddresses st src dst) .unit

/-- `RDADDR -> (src, dst)` (R90). -/
def execRdaddr (st : State) : Host.Outcome State Fault Refusal :=
  report st (match readAddresses st with
    | .ok (src, dst) => .ok (.addresses src dst)
    | .error c => .error c)

/-- `COMPOSE code, data -> (frame)` (R93). -/
def execCompose (code : Byte) (data : Bytes) (st : State) : Host.Outcome State Fault Refusal :=
  report st ((composeFrame st code data).map .frame)

end Sys2Proof.Machine
end

