-- ==== Sys2Proof/Machine/Parser.lean ====
section
/-! DEFINITION. The frame parser, the source match and the response registers (spec/43_frame_parser.md). -/

namespace Sys2Proof.Machine

/-- `HDR h -> (crc, src, dst, length)` (R97). -/
def execHdr (h : Bytes) (st : State) : Host.Outcome State Fault Refusal :=
  report st ((extractHeader h).map .header)

/-- `BODY length, b -> (code, data, checksum)` (R99). -/
def execBody (length : Byte) (b : Bytes) (st : State) : Host.Outcome State Fault Refusal :=
  report st ((extractBody length b).map .body)

/-- `SRCMATCH src -> (match)` (R103). -/
def execSrcmatch (src : Addr) (st : State) : Host.Outcome State Fault Refusal :=
  reportWrite st (match matchSource st src with
    | .ok (t, verdict) => .ok (t, .matched verdict)
    | .error c => .error c)

/-- `PARSE crc, src, dst, length, code, data, checksum -> ()` (R108). -/
def execParse (crc : Crc) (src dst : Addr) (length code : Byte) (data : Bytes) (checksum : Byte) (st : State) :
    Host.Outcome State Fault Refusal :=
  reportWrite st (match parseResponse st ⟨⟨crc, src, dst, length⟩, ⟨code, data, checksum⟩⟩ with
    | .ok t => .ok (t, .unit)
    | .error c => .error c)

/-- `RDRESP -> (code, data)` (R113): no error, `None` where no response is stored. -/
def execRdresp (st : State) : Host.Outcome State Fault Refusal :=
  complete st (.response st.respCode st.respData)

end Sys2Proof.Machine
end

