-- ==== Sys2Proof/Machine/Recon.lean ====
section
/-! DEFINITION. The redundancy-code counter validator (spec/41_value_reconstruction.md). -/

namespace Sys2Proof.Machine

/-- `RECON base, inc, check -> (value)` (R82): a failed check is the output `None`, not an error. -/
def execRecon (base : BitVec 16) (inc check : Byte) (st : State) : Host.Outcome State Fault Refusal :=
  complete st (.recon (reconstruct st.rtableHi base inc check))

end Sys2Proof.Machine
end

