-- ==== Sys2Proof/Machine/Reserved.lean ====
section
/-! DEFINITION. The five reserved selectors (spec/30_encoding.md R62): each raises `IllegalOperation` and writes no
register; "no selector is a hint or a no-op". -/

namespace Sys2Proof.Machine

/-- Selector 0x0. -/
def execReserved0 (st : State) : Host.Outcome State Fault Refusal := raise st (.illegalOperation 0x0)

/-- Selector 0xC. -/
def execReservedC (st : State) : Host.Outcome State Fault Refusal := raise st (.illegalOperation 0xC)

/-- Selector 0xD. -/
def execReservedD (st : State) : Host.Outcome State Fault Refusal := raise st (.illegalOperation 0xD)

/-- Selector 0xE. -/
def execReservedE (st : State) : Host.Outcome State Fault Refusal := raise st (.illegalOperation 0xE)

/-- Selector 0xF. -/
def execReservedF (st : State) : Host.Outcome State Fault Refusal := raise st (.illegalOperation 0xF)

end Sys2Proof.Machine
end

