-- ==== Sys2Proof/Machine/Catalog.lean ====
section
/-! DEFINITION. The command catalog (spec/47_command_catalog.md): the request each command kind encodes and the
decoder of its response. -/

namespace Sys2Proof.Machine

/-! ## The config byte (R122 to R124) -/

/-- A mode index read through `MODE_TABLE` (R124). -/
def modeOf (table : Vector Mode 4) (index : BitVec 2) : Mode := table[index.toFin]

/-- The inverse of `MODE_TABLE`: "mode index looked up by name" (R123). -/
def modeIndex (table : Vector Mode 4) (mode : Mode) : BitVec 2 :=
  if table[0] = mode then 0 else if table[1] = mode then 1 else if table[2] = mode then 2 else 3

/-- The config byte and the counters field as a Config record (R121, R122); bits 7:6 are ignored. -/
def configOf (table : Vector Mode 4) (counters : Addr) (g : Byte) : MeterConfig :=
  { counters := counters
    transparentMode := g.getLsbD 0
    zeroThreshold := g.getLsbD 1
    mode := modeOf table (g.extractLsb' 2 2)
    dst := g.getLsbD 4
    plcDisabled := g.getLsbD 5 }

/-- `g = tm | zt<<1 | idx(mode)<<2 | dst<<4 | plc<<5` (R123); bits 7:6 are written 0. -/
def configByte (table : Vector Mode 4) (c : MeterConfig) : Byte :=
  BitVec.ofNat 8 (c.transparentMode.toNat ||| c.zeroThreshold.toNat <<< 1 ||| (modeIndex table c.mode).toNat <<< 2 |||
    c.dst.toNat <<< 4 ||| c.plcDisabled.toNat <<< 5)

/-! ## Dates and records (R130, R132) -/

/-- Divisible by 4 and not by 100, or divisible by 400 (R130, from general knowledge; log 20). -/
def leapYear (year : Nat) : Bool := (year % 4 == 0 && year % 100 != 0) || year % 400 == 0

/-- The Gregorian month length (R130; log 20). -/
def daysIn (year month : Nat) : Nat :=
  if month = 2 then (if leapYear year then 29 else 28)
  else if month = 4 ∨ month = 6 ∨ month = 9 ∨ month = 11 then 30
  else 31

/-- `mkDate(y, mo, d, h, mi)` (R130): `2000+y`, `mo+1`, `d+1`, or `None` where that is no calendar date and time. -/
def mkDate (y mo d h mi : Byte) : Option DateTime :=
  let year := 2000 + y.toNat
  let month := mo.toNat + 1
  let day := d.toNat + 1
  if month ≤ 12 ∧ day ≤ daysIn year month ∧ h.toNat ≤ 23 ∧ mi.toNat ≤ 59 then
    some ⟨year, month, day, h.toNat, mi.toNat⟩
  else none

/-- The records of the 11-byte chunks of R128, in input order (R129). -/
def historyRecords (rtableHi : Vector Byte 256) : Bytes → List HistoryRecord
  | type :: b0 :: b1 :: inc :: check :: level :: minute :: hour :: day :: month :: year :: rest =>
    { level := level, type := type
      value := reconstruct rtableHi (fromLe16 b0 b1) inc check
      date := mkDate year month day hour minute } :: historyRecords rtableHi rest
  | _ => []

/-! ## Requests (R118, R120 to R127) -/

/-- `encode_K(args)`: the code byte and the data bytes of the request. -/
def encodeRequest (table : Vector Mode 4) : CommandKind → Byte × Bytes
  | .getNetworkId => (0x86, [])
  | .getConfig => (0x80, [])
  | .setConfig c => (0x00, le16 c.counters ++ [configByte table c])
  | .getLastPacket counterId => (0x82, le16 counterId)
  | .getHistory counterId => (0x85, le16 counterId)

/-! ## Responses (R117, R119) -/

/-- `e_K`, the response code a kind expects (R117, R118): the request code, but `SETCONFIG_ACK_CODE` for SetConfig. -/
def expectedCode (ack : Byte) : CommandKind → Byte
  | .getNetworkId => 0x86
  | .getConfig => 0x80
  | .setConfig _ => ack
  | .getLastPacket _ => 0x82
  | .getHistory _ => 0x85

/-- A 2-byte payload: the network id (R120). -/
def decodeNetworkId : Bytes → Except Cause Decoded
  | [a, b] => .ok (.networkId (fromLe16 a b))
  | d => .error (.decodeError 2 (some d.length))

/-- A 3-byte payload: the counters field and the config byte (R121). -/
def decodeConfig (table : Vector Mode 4) : Bytes → Except Cause Decoded
  | [a, b, g] => .ok (.config (configOf table (fromLe16 a b) g))
  | d => .error (.decodeError 3 (some d.length))

/-- No payload: no last packet; else exactly 13 bytes (R125, R126). `addr` is returned, not compared (D25). -/
def decodeLastPacket (rtableHi : Vector Byte 256) : Bytes → Except Cause Decoded
  | [] => .ok (.lastPacket none)
  | [a0, a1, type, b0, b1, inc, check, level, minute, hour, day, month, year] =>
    .ok (.lastPacket (some (fromLe16 a0 a1,
      { level := level, type := type
        value := reconstruct rtableHi (fromLe16 b0 b1) inc check
        date := mkDate year month day hour minute })))
  | d => .error (.decodeError 13 (some d.length))

/-- No payload: no records; else the echoed counter id and then whole 11-byte records (R127 to R129). -/
def decodeHistory (rtableHi : Vector Byte 256) (counterId : Addr) : Bytes → Except Cause Decoded
  | [] => .ok (.history [])
  | [_] => .error (.decodeError 2 (some 1))
  | a :: b :: rest =>
    if fromLe16 a b ≠ counterId then .error (.addressMismatch counterId (fromLe16 a b))
    else if rest.length % 11 ≠ 0 then .error (.framingError (.multipleOf 11) rest.length)
    else .ok (.history (historyRecords rtableHi rest))

/-- The payload decoder of a kind, after its response code was accepted. -/
def decodePayload (s : State) : CommandKind → Bytes → Except Cause Decoded
  | .getNetworkId, d => decodeNetworkId d
  | .getConfig, d => decodeConfig s.modeTable d
  | .setConfig _, d => decodeConfig s.modeTable d
  | .getLastPacket _, d => decodeLastPacket s.rtableHi d
  | .getHistory counterId, d => decodeHistory s.rtableHi counterId d

/-- `decode_K` applied to `(RESP_CODE, RESP_DATA)` (R116): the response code first (R117, R119), then the payload;
the last case is unreached (log 22). -/
def decodeResponse (s : State) (k : CommandKind) : Except Cause Decoded :=
  match s.respCode, s.respData with
  | some code, some data =>
    if code = expectedCode s.setConfigAck k then decodePayload s k data
    else .error (.decodeError (expectedCode s.setConfigAck k).toNat (some code.toNat))
  | _, _ => .error (.decodeError (expectedCode s.setConfigAck k).toNat none)

end Sys2Proof.Machine
end

