-- ==== Sys2Proof/Machine/Line.lean ====
section
/-! DEFINITION. The Transport's operations (spec/48_host_session.md R144): each call takes its outcome from the input
lists of the state and is written into the history. -/

namespace Sys2Proof.Machine

/-- What a failure leaves of the line. The spec is silent on `is_open()` after a failed flush, write or read: the
failure says whether the line is closed by it (DESIGN CHOICE, log 25). A closed line is not configured (log 11). -/
def Transport.afterFailure (t : Transport) (f : LineFailure) : Transport :=
  if f.closesLine then { t with isOpen := false, configured := false } else t

/-- The next outcome of an `open`, `configure`, `flush` or `write` call; past the end of the list it succeeds. A
failure is answered as it stands, and may close the line (log 25). -/
def Transport.call (t : Transport) (c : TransportCall) : Transport × Except LineFailure Unit :=
  match t.calls with
  | [] => ({ t with log := t.log ++ [c] }, .ok ())
  | .done :: rest => ({ t with calls := rest, log := t.log ++ [c] }, .ok ())
  | .failed f :: rest => (({ t with calls := rest, log := t.log ++ [c] }).afterFailure f, .error f)

/-- `open()`: "idempotent". An opened line is not configured yet. -/
def Transport.openLine (t : Transport) : Transport × Except TransportError Unit :=
  if t.isOpen then (t, .ok ())
  else
    match t.call .openLine with
    | (u, .ok ()) => ({ u with isOpen := true, configured := false }, .ok ())
    | (u, .error f) => (u, .error f.error)

/-- `configure()`: "applies line parameters; must be called after open before use". -/
def Transport.configure (t : Transport) : Transport × Except TransportError Unit :=
  match t.call .configure with
  | (u, .ok ()) => ({ u with configured := true }, .ok ())
  | (u, .error f) => (u, .error f.error)

/-- "Ensure Transport is open and configured (idempotent: no-op if already open)" (R138; log 11). -/
def Transport.ensureReady (t : Transport) : Transport × Except TransportError Unit :=
  match t.openLine with
  | (u, .error e) => (u, .error e)
  | (u, .ok ()) => if u.configured then (u, .ok ()) else u.configure

/-- `flush()`: "discards unread/unwritten buffered bytes". A flush that fails discards nothing (log 25). -/
def Transport.flush (t : Transport) : Transport × Except TransportError Unit :=
  match t.call .flush with
  | (u, .ok ()) => ({ u with incoming := [], unwritten := [] }, .ok ())
  | (u, .error f) => (u, .error f.error)

/-- `write(bytes)`: "must write all bytes or fail"; the count written is the length. The bytes a failed write did not
send stay buffered (log 25). -/
def Transport.write (b : Bytes) (t : Transport) : Transport × Except TransportError Nat :=
  match t.call (.write b) with
  | (u, .ok ()) => (u, .ok b.length)
  | (u, .error f) => ({ u with unwritten := u.unwritten ++ b.drop f.sent }, .error f.error)

/-- `read(size)`: what arrives joins the unread bytes, and the call returns some of them from the front (R146) or fails.
A failed read consumes nothing, and may close the line (log 25). Past the end of the list nothing arrives: the call
returns `size` unread bytes where there are so many, else it times out (R144, R145; log 10). -/
def Transport.read (size : Nat) (t : Transport) : Transport × Except TransportError Bytes :=
  let u := { t with reads := t.reads.drop 1, log := t.log ++ [.read size] }
  match t.reads with
  | [] =>
    if size ≤ t.incoming.length then ({ u with incoming := t.incoming.drop size }, .ok (t.incoming.take size))
    else (u, .error .timeout)
  | ⟨arrived, .count n⟩ :: _ =>
    ({ u with incoming := (t.incoming ++ arrived).drop n }, .ok ((t.incoming ++ arrived).take n))
  | ⟨arrived, .failed f⟩ :: _ =>
    (({ u with incoming := t.incoming ++ arrived }).afterFailure f, .error f.error)

/-- `close()`: "best-effort, never raises": it may or may not close the line, as `effective` says. No rule has the
host's exchange call it (log 11). -/
def Transport.close (t : Transport) (effective : Bool) : Transport :=
  if effective then { t with isOpen := false, configured := false } else t

end Sys2Proof.Machine
end

