-- ==== Sys2Proof/Machine/Session.lean ====
section
/-! DEFINITION. The host's exchange (spec/48_host_session.md R136 to R141) over the block's operations, and the
meaning of each command kind of spec/opcode_table.json: one whole exchange of that kind (log 9). -/

namespace Sys2Proof.Machine

/-- One host action after another: "the first error ends the exchange" (60_exceptions.md R157); what was written
before it stays (R155). -/
def andThen {α β : Type} (r : State × Except Cause α) (next : α → State → State × Except Cause β) :
    State × Except Cause β :=
  match r.2 with
  | .ok a => next a r.1
  | .error c => (r.1, .error c)

/-- A Transport call of the host: a failure is a `TransportFault` (R144). -/
def onTransport {α : Type} (f : Transport → Transport × Except TransportError α) (s : State) :
    State × Except Cause α :=
  ({ s with transport := (f s.transport).1 },
    match (f s.transport).2 with
    | .ok a => .ok a
    | .error e => .error (.transportFault e))

/-- A block operation that writes no register, as a host action. -/
def onBlock {α : Type} (r : Except Cause α) (s : State) : State × Except Cause α := (s, r)

/-- `SRCMATCH` as a host action: an error writes nothing. -/
def hostMatch (src : Addr) (s : State) : State × Except Cause Bool :=
  match matchSource s src with
  | .ok (t, verdict) => (t, .ok verdict)
  | .error c => (s, .error c)

/-- `PARSE` as a host action: an error writes nothing. -/
def hostParse (f : Frame) (s : State) : State × Except Cause Unit :=
  match parseResponse s f with
  | .ok t => (t, .ok ())
  | .error c => (s, .error c)

/-- After a successful `PARSE` the host issues `RDADDR` "and stores the result as (sessSrc, sessDst)" (R137), before it decodes (R139;
log 23). -/
def hostStoreSession (s : State) : State × Except Cause Unit :=
  match readAddresses s with
  | .ok (src, dst) => ({ s with sessSrc := src, sessDst := dst }, .ok ())
  | .error c => (s, .error c)

/-- The receive loop with `n` attempts left (R139, R140): only a source mismatch takes another attempt (R141). -/
def receiveLoop (k : CommandKind) : Nat → State → State × Except Cause Decoded
  | 0, s => (s, .error .retryLimitExceeded)
  | n + 1, s =>
    andThen (onTransport (Transport.read Config.headerSize) s) fun h s =>
    andThen (onBlock (extractHeader h) s) fun header s =>
    andThen (onTransport (Transport.read (header.length.toNat + 1)) s) fun b s =>
    andThen (onBlock (extractBody header.length b) s) fun body s =>
    andThen (hostMatch header.src s) fun verdict s =>
    if verdict then
      andThen (hostParse ⟨header, body⟩ s) fun _ s =>
      andThen (hostStoreSession s) fun _ s =>
      onBlock (decodeResponse s k) s
    else receiveLoop k n s

/-- The send steps (R138): the Transport ready, the line flushed, the whole request frame in one write. -/
def sendRequest (k : CommandKind) (s : State) : State × Except Cause Unit :=
  andThen (onTransport Transport.ensureReady s) fun _ s =>
  andThen (onTransport Transport.flush s) fun _ s =>
  andThen (onBlock (composeFrame s (encodeRequest s.modeTable k).1 (encodeRequest s.modeTable k).2) s) fun frame s =>
  andThen (onTransport (Transport.write frame) s) fun _ s =>
  (s, .ok ())

/-- One exchange (R136 to R139): `LDADDR sessSrc, sessDst` first (step 1; log 12), the send steps, the receive loop. -/
def exchange (k : CommandKind) (s : State) : State × Except Cause Decoded :=
  andThen (sendRequest k (loadAddresses s s.sessSrc s.sessDst)) fun _ s => receiveLoop k Config.maxAttempts s

/-- Report an exchange: "either with the decoded result or with one operational failure" (R136). -/
def reportExchange (r : State × Except Cause Decoded) : Host.Outcome State Fault Refusal :=
  report r.1 (r.2.map .decoded)

/-- `GetNetworkID` (47_command_catalog.md R120). -/
def execGetNetworkId (st : State) : Host.Outcome State Fault Refusal :=
  reportExchange (exchange .getNetworkId st)

/-- `GetConfig` (R121). -/
def execGetConfig (st : State) : Host.Outcome State Fault Refusal :=
  reportExchange (exchange .getConfig st)

/-- `SetConfig` (R123). -/
def execSetConfig (config : MeterConfig) (st : State) : Host.Outcome State Fault Refusal :=
  reportExchange (exchange (.setConfig config) st)

/-- `GetLastPacket` (R125, R126). -/
def execGetLastPacket (counterId : Addr) (st : State) : Host.Outcome State Fault Refusal :=
  reportExchange (exchange (.getLastPacket counterId) st)

/-- `GetHistory` (R127 to R129). -/
def execGetHistory (counterId : Addr) (st : State) : Host.Outcome State Fault Refusal :=
  reportExchange (exchange (.getHistory counterId) st)

end Sys2Proof.Machine
end

