-- ==== Sys2Proof/Machine/Dispatch.lean ====
section
/-! DEFINITION. One arm per instruction. -/

namespace Sys2Proof.Machine

def exec (i : Instr) (s : State) : Host.Outcome State Fault Refusal :=
  match i with
  | .crc24 bs => Sys2Proof.Machine.execCrc24 bs s
  | .csum bs => Sys2Proof.Machine.execCsum bs s
  | .recon base inc check => Sys2Proof.Machine.execRecon base inc check s
  | .ldaddr src dst => Sys2Proof.Machine.execLdaddr src dst s
  | .rdaddr => Sys2Proof.Machine.execRdaddr s
  | .compose code data => Sys2Proof.Machine.execCompose code data s
  | .hdr h => Sys2Proof.Machine.execHdr h s
  | .body length b => Sys2Proof.Machine.execBody length b s
  | .srcmatch src => Sys2Proof.Machine.execSrcmatch src s
  | .parse crc src dst length code data sum => Sys2Proof.Machine.execParse crc src dst length code data sum s
  | .rdresp => Sys2Proof.Machine.execRdresp s
  | .reserved0 => Sys2Proof.Machine.execReserved0 s
  | .reservedC => Sys2Proof.Machine.execReservedC s
  | .reservedD => Sys2Proof.Machine.execReservedD s
  | .reservedE => Sys2Proof.Machine.execReservedE s
  | .reservedF => Sys2Proof.Machine.execReservedF s
  | .getNetworkId => Sys2Proof.Machine.execGetNetworkId s
  | .getConfig => Sys2Proof.Machine.execGetConfig s
  | .setConfig config => Sys2Proof.Machine.execSetConfig config s
  | .getLastPacket counterId => Sys2Proof.Machine.execGetLastPacket counterId s
  | .getHistory counterId => Sys2Proof.Machine.execGetHistory counterId s

end Sys2Proof.Machine
end

