-- ==== Sys2Proof/Machine/Issue.lean ====
section
/-! DEFINITION. The queue of issued operations (spec/30_encoding.md R59): taking the oldest, placing one first, and
the refusal of an issue that is none of the interface's. -/

namespace Sys2Proof.Machine

/-- The oldest issue and the state without it; operations take effect in issue order (20_memory.md R45). -/
def takeIssue (s : State) : Option (Issue × State) :=
  match s.pending with
  | [] => none
  | issue :: rest => some (issue, { s with pending := rest })

/-- An issue placed before all others. -/
def issueFirst (s : State) (issue : Issue) : State := { s with pending := issue :: s.pending }

/-- The refusal of an issue the decoder rejects (log 15). -/
def refusalOf : IssueError → Refusal
  | .operands selector => .malformedOperation selector
  | .arguments code => .malformedCall code
  | .unknownCommand code => .unknownCommand code

end Sys2Proof.Machine
end

