-- ==== Sys2Proof/Machine/Step.lean ====
section
/-! DEFINITION. One step: the block takes the oldest issued operation, decodes it and runs it
(spec/20_memory.md R42, R45). -/

namespace Sys2Proof.Machine

/-- With nothing issued "the block simply holds its state" (60_exceptions.md R165; log 3). Otherwise the oldest issue
leaves the queue and its instruction runs. -/
def step (s : State) : Host.Outcome State Fault Refusal :=
  match takeIssue s with
  | none => .next s
  | some (issue, t) =>
    match decode issue with
    | .ok i => exec i t
    | .error e => .refused (refusalOf e)

/-- The state with the instruction a word of spec/opcode_table.json stands for issued first (log 16). -/
def State.withFetchWord (s : State) (nbits w : Nat) : State := issueFirst s (issueOfTableWord nbits w)

end Sys2Proof.Machine
end

