-- ==== Sys2Proof/Safety.lean ====
section
/-! DEFINITION. What a good state and a safe run are, in the terms the statements use. -/

namespace Sys2Proof.Machine

/-- The invariant of the machine. -/
structure State.Inv (s : State) : Prop where
  /-- "The two flags are always equal" (spec/95_test_vectors.md 2.9, from 10_state.md R30). -/
  flagsEqual : s.srcSet = s.dstSet
  /-- `RESP_CODE = None` if and only if `RESP_DATA = None` (10_state.md R26). -/
  responseTogether : s.respCode.isSome = s.respData.isSome
  /-- `|d| <= 254` when `RESP_DATA = Some d` (R26). -/
  responseShort : ∀ d, s.respData = some d → d.length ≤ 254
  /-- A stored response stands only beside set addresses: LDADDR clears it, an accepted PARSE sets both (R89, R110). -/
  responseAddressed : s.respCode.isSome = true → s.dstSet = true
  /-- `MODE_TABLE` is a bijection (00_scope.md R10): no mode stands at two indices. -/
  modesDistinct : s.modeTable.toList.Nodup

/-- The registers the block's operations may write (10_state.md R19), as one value, and the constant `RTABLE`. -/
structure Registers where
  src      : Addr
  srcSet   : Bool
  dst      : Addr
  dstSet   : Bool
  respCode : Option Byte
  respData : Option Bytes
  rtableHi : Vector Byte 256
deriving DecidableEq, Repr

/-- The block's architectural state within the machine's (10_state.md R19: "exactly the following"). -/
def State.registers (s : State) : Registers :=
  ⟨s.src, s.srcSet, s.dst, s.dstSet, s.respCode, s.respData, s.rtableHi⟩

/-- The rows of spec/30_encoding.md R60: the block's own operations, reserved selectors included. The other
instructions are the catalog's command kinds. -/
def isBlockOperation : Instr → Bool
  | .crc24 _ | .csum _ | .recon _ _ _ | .ldaddr _ _ | .rdaddr | .compose _ _ | .hdr _ | .body _ _ | .srcmatch _ => true
  | .parse _ _ _ _ _ _ _ | .rdresp | .reserved0 | .reservedC | .reservedD | .reservedE | .reservedF => true
  | .getNetworkId | .getConfig | .setConfig _ | .getLastPacket _ | .getHistory _ => false

/-- A safe run of `n` steps: it meets no fault and no refusal. -/
def SafeRun (n : Nat) (s : State) : Prop := ∃ t, Host.Core.run core n s = .next t

end Sys2Proof.Machine
end

