-- ==== Sys2Proof/Certificates/Slice0/Obligations.lean ====
section
/-! DEFINITION. The statements about the model, one `def Obligations.<Name> : Prop` each, and the words they are
stated in (namespace `Sys2Proof.Claim`). Rule numbers are those of spec/. In every statement `result` is the model's own
field for the result of the latest operation (log 2), an issue is typed (log 1), and an exchange is one step of the
model whose Transport outcomes stand in the state (log 9, log 10). -/

open Sys2Proof Sys2Proof.Machine
open Host (Outcome)

namespace Sys2Proof.Claim

/-! ## Words about the checksum primitives -/

/-- One shift of a 24-bit register whose carry-out selects the exclusive-or (R72). -/
def registerShift (c : BitVec 24) : BitVec 24 := if c.msb then (c <<< 1) ^^^ 0x864CFB#24 else c <<< 1

/-- One byte into the register: into bits 23:16, then 8 shifts. -/
def registerByte (c : BitVec 24) (b : Byte) : BitVec 24 :=
  registerShift (registerShift (registerShift (registerShift (registerShift (registerShift (registerShift
    (registerShift (c ^^^ (b.setWidth 24 <<< 16)))))))))

/-- The bits of a word as a polynomial over GF(2): bit `i` is the coefficient of `X ^ i`. -/
noncomputable def polyOf {w : Nat} (v : BitVec w) : Polynomial (ZMod 2) :=
  ∑ i ∈ Finset.range w, if v.getLsbD i then Polynomial.X ^ i else 0

/-- A byte sequence as a polynomial, the first byte most significant. -/
noncomputable def messagePoly : Bytes → Polynomial (ZMod 2)
  | [] => 0
  | b :: rest => polyOf b * Polynomial.X ^ (8 * rest.length) + messagePoly rest

/-- The generator polynomial, as R74 writes it. -/
noncomputable def generator : Polynomial (ZMod 2) :=
  Polynomial.X ^ 24 + Polynomial.X ^ 23 + Polynomial.X ^ 18 + Polynomial.X ^ 17 + Polynomial.X ^ 14 +
  Polynomial.X ^ 11 + Polynomial.X ^ 10 + Polynomial.X ^ 7 + Polynomial.X ^ 6 + Polynomial.X ^ 5 +
  Polynomial.X ^ 4 + Polynomial.X ^ 3 + Polynomial.X + 1

/-! ## Words about the registers -/

/-- The operation reads an address register whose flag is false (R23, with the reads of R30). -/
def readsUnset (s : State) : Instr → Bool
  | .rdaddr => !s.srcSet || !s.dstSet
  | .compose _ _ => !s.srcSet || !s.dstSet
  | .srcmatch _ => !s.dstSet
  | .parse _ _ _ _ _ _ _ => !s.dstSet
  | _ => false

/-- The block operations that may write a register (R30, R43). -/
def writesRegisters : Instr → Bool
  | .ldaddr _ _ => true
  | .srcmatch _ => true
  | .parse _ _ _ _ _ _ _ => true
  | _ => false

/-- Two states differ at most in an address register whose flag is false. -/
def agreeButUnset (s s' : State) : Prop :=
  (s.srcSet = true → s'.src = s.src) ∧ (s.dstSet = true → s'.dst = s.dst) ∧ s' = { s with src := s'.src, dst := s'.dst }

/-- Two outcomes tell the same but for an address register whose flag is false. -/
def sameOutcome : Outcome State Fault Refusal → Outcome State Fault Refusal → Prop
  | .next t, .next t' => agreeButUnset t t'
  | .fault f, .fault f' => f = f'
  | .refused r, .refused r' => r = r'
  | _, _ => False

/-! ## Words about frames and exchanges -/

/-- The frame of a request (R91 to R93). -/
def requestFrame (src dst : Addr) (code : Byte) (data : Bytes) : Frame :=
  { header :=
      { crc := crc24 (le16 src ++ le16 dst ++ [BitVec.ofNat 8 (1 + data.length)])
        src := src, dst := dst, length := BitVec.ofNat 8 (1 + data.length) }
    body := { code := code, data := data, checksum := checksum (code :: data) } }

/-- The CRC field and the checksum field are the recomputed ones (R109 checks 1 and 2). -/
def intact (f : Frame) : Prop :=
  crc24 (le16 f.header.src ++ le16 f.header.dst ++ [f.header.length]) = f.header.crc ∧
  checksum (f.body.code :: f.body.data) = f.body.checksum

/-- The source is in the discovery range (R105): `0x2F01` to `0x2FFE`. -/
def discoverable (src : Addr) : Prop := 0x2F01 ≤ src.toNat ∧ src.toNat ≤ 0x2FFE

/-- A response source that matches the session destination `d`, by equality or by discovery (R104, R105). -/
def fromExpected (d src : Addr) : Prop := src = d ∨ (d = 0x2FFF#16 ∧ discoverable src)

/-- The instruction of a command kind. -/
def instrOf : CommandKind → Instr
  | .getNetworkId => .getNetworkId
  | .getConfig => .getConfig
  | .setConfig c => .setConfig c
  | .getLastPacket counterId => .getLastPacket counterId
  | .getHistory counterId => .getHistory counterId

/-- The byte sequences a list of frames is received in: each header, then each body (R53). -/
def chunksOf : List Frame → List Bytes
  | [] => []
  | f :: rest => encodeHeader f.header :: encodeBody f.body :: chunksOf rest

/-- The unread bytes and the read outcomes left after reads that return these byte sequences, from the unread bytes and
the outcomes before; `none` where the reads return something else. However the bytes arrive in pieces, only what each
read returns counts; where no outcome is left, a read returns unread bytes (R144). -/
def afterReads : Bytes → List ReadOutcome → List Bytes → Option (Bytes × List ReadOutcome)
  | incoming, reads, [] => some (incoming, reads)
  | incoming, [], b :: bs => if incoming.take b.length = b then afterReads (incoming.drop b.length) [] bs else none
  | incoming, ⟨arrived, .count n⟩ :: reads, b :: bs =>
    if (incoming ++ arrived).take n = b then afterReads ((incoming ++ arrived).drop n) reads bs else none
  | _, ⟨_, .failed _⟩ :: _, _ :: _ => none

/-- The read calls the host makes for them: 8 bytes, then `length + 1` (R139). -/
def readCalls : List Frame → List TransportCall
  | [] => []
  | f :: rest => .read 8 :: .read (f.header.length.toNat + 1) :: readCalls rest

/-- Whether a Transport call is a read. -/
def isRead : TransportCall → Bool
  | .read _ => true
  | _ => false

/-- Whether a Transport call is a write. -/
def isWrite : TransportCall → Bool
  | .write _ => true
  | _ => false

/-- The calls that make a Transport ready that is not open and configured (R138, R144; log 11). -/
def readyCalls (t : Transport) : List TransportCall :=
  if t.isOpen then (if t.configured then [] else [.configure]) else [.openLine, .configure]

/-- Whatever calls make the Transport ready, they and the two calls after them (flush and write) succeed. -/
def lineReady (s : State) : Prop :=
  ∀ c ∈ s.transport.calls.take ((readyCalls s.transport).length + 2), c = .done

/-- The Transport calls of the send steps (R138): flush, then the whole request frame in one write. -/
def sendCalls (s : State) (k : CommandKind) : List TransportCall :=
  [.flush, .write (encodeFrame (requestFrame s.sessSrc s.sessDst (encodeRequest s.modeTable k).1
    (encodeRequest s.modeTable k).2))]

/-- The Transport after the send steps and the reads of some frames: ready, its buffers emptied by the flush, then the
unread bytes `incoming` and the read outcomes `reads` left. -/
def lineAfter (s : State) (k : CommandKind) (received : List Frame) (incoming : Bytes) (reads : List ReadOutcome) :
    Transport :=
  { isOpen := true, configured := true, incoming := incoming, unwritten := []
    calls := s.transport.calls.drop ((readyCalls s.transport).length + 2), reads := reads
    log := s.transport.log ++ readyCalls s.transport ++ sendCalls s k ++ readCalls received }

/-- The line as a failed call leaves it, closed where the failure says so (log 25). -/
def lineLost (f : LineFailure) (t : Transport) : Transport :=
  if f.closesLine then { t with isOpen := false, configured := false } else t

/-- An exchange that failed before any source matched: the session addresses are loaded, no response is stored, the
session addresses are kept (R89, R155). -/
def failed (s : State) (t : Transport) (c : Cause) : State :=
  { s with
    src := s.sessSrc, srcSet := true, dst := s.sessDst, dstSet := true, respCode := none, respData := none
    transport := t, result := some (.raise c) }

/-- The 11 bytes of a record chunk as a record (R128, R129), the bytes taken by their offset. -/
def recordAt (rtableHi : Vector Byte 256) (r : Bytes) : HistoryRecord :=
  { type := r.getD 0 0
    value := reconstruct rtableHi (fromLe16 (r.getD 1 0) (r.getD 2 0)) (r.getD 3 0) (r.getD 4 0)
    level := r.getD 5 0
    date := mkDate (r.getD 10 0) (r.getD 9 0) (r.getD 8 0) (r.getD 7 0) (r.getD 6 0) }

/-- What the host's decoder of a kind gives for a stored response of the code that kind expects and this payload
(R116, R117). -/
def decodedAs (s : State) (k : CommandKind) (data : Bytes) : Except Cause Decoded :=
  decodeResponse { s with respCode := some (expectedCode s.setConfigAck k), respData := some data } k

end Sys2Proof.Claim

open Sys2Proof.Claim

/-! ## The checksum primitives -/

/-- R73 `CRC24`: selector, result and wire form for every byte sequence and state; nothing else changes; the empty
sequence and the example of the rule. -/
def Obligations.Crc24ReturnsValueAndWireForm : Prop :=
  (∀ bs s, encode (.crc24 bs) = .op 0x1 [.bytes bs] ∧
    exec (.crc24 bs) s = .next { s with result := some (.ok (.crc24 (crc24 bs)
      [(crc24 bs).extractLsb' 0 8, (crc24 bs).extractLsb' 8 8, (crc24 bs).extractLsb' 16 8])) }) ∧
  (crc24 [] = 0xB704CE#24 ∧ le24 0xB704CE#24 = [0xCE, 0x04, 0xB7]) ∧
  (crc24 [0x01, 0x00, 0xFF, 0x2F, 0x01] = 0x7E40CA#24 ∧ le24 0x7E40CA#24 = [0xCA, 0x40, 0x7E])

/-- R72: the loop of R70 is a 24-bit register whose carry-out selects the exclusive-or, and its accumulator stays
below 2^24 after every shift and after every byte. -/
def Obligations.CrcIsTwentyFourBitRegister : Prop :=
  (∀ bs, crc24 bs = bs.foldl registerByte 0xB704CE#24) ∧ (∀ c, c < 2 ^ 24 → crcShift c < 2 ^ 24) ∧
    (∀ c bs, c < 2 ^ 24 → crcFrom c bs < 2 ^ 24)

/-- R74: the CRC is the remainder of the initial register and the message, most significant bit first, modulo the
generator polynomial; no reflection, no final exclusive-or. -/
def Obligations.CrcIsPolynomialRemainder : Prop :=
  ∀ bs, polyOf (crc24 bs) =
    (polyOf (0xB704CE#24) * Polynomial.X ^ (8 * bs.length) + messagePoly bs * Polynomial.X ^ 24) %ₘ generator

/-- R80: both functions may be computed byte by byte in wire order. -/
def Obligations.ChecksumsComposeOverConcatenation : Prop :=
  ∀ s t, checksum (s ++ t) = BitVec.ofNat 8 ((checksum s).toNat + (t.map (·.toNat)).sum) ∧
    crc24 (s ++ t) = BitVec.ofNat 24 (crcFrom (crc24 s).toNat t)

/-- From R70 and the glossary of R16 ("detects header corruption"): two byte sequences that differ in exactly one byte
have different CRCs. -/
def Obligations.OneCorruptedByteChangesCrc : Prop :=
  ∀ (before after : Bytes) (a b : Byte), a ≠ b → crc24 (before ++ a :: after) ≠ crc24 (before ++ b :: after)

/-- R75, R76 `CSUM`: selector, and the sum minus 1 modulo 256 for every byte sequence and state; nothing else changes;
the example of the rule. -/
def Obligations.CsumReturnsBiasedByteSum : Prop :=
  (∀ bs s, encode (.csum bs) = .op 0x2 [.bytes bs] ∧
    ∃ k : Byte, (k.toNat : Int) = (((bs.map (·.toNat)).sum : Nat) - 1 : Int) % 256 ∧
      exec (.csum bs) s = .next { s with result := some (.ok (.csum k)) }) ∧
  checksum [0x82, 0x05, 0x00] = 0x86

/-! ## The redundancy-code validator -/

/-- R82 `RECON`: selector; the value is accepted exactly when the table entry is `check * 256 + inc`; the result is the
exact sum; no error, nothing written. -/
def Obligations.ReconAcceptsTableCode : Prop :=
  ∀ base inc check s, encode (.recon base inc check) = .op 0x3 [.u16 base, .u8 inc, .u8 check] ∧
    ((romRead s.rtableHi inc).toNat = check.toNat * 256 + inc.toNat →
      exec (.recon base inc check) s =
        .next { s with result := some (.ok (.recon (some (BitVec.ofNat 32 (base.toNat + inc.toNat))))) }) ∧
    ((romRead s.rtableHi inc).toNat ≠ check.toNat * 256 + inc.toNat →
      exec (.recon base inc check) s = .next { s with result := some (.ok (.recon none)) })

/-- R84, R85: whatever the base, exactly one check byte is accepted for each increment, and the value never wraps. -/
def Obligations.ReconAcceptsOneCheckByte : Prop :=
  ∀ (table : Vector Byte 256) (inc : Byte),
    (∃! check : Byte, ∀ base, (reconstruct table base inc check).isSome = true) ∧
    (∀ base base' check, (reconstruct table base inc check).isSome = (reconstruct table base' inc check).isSome) ∧
    (∀ base check v, reconstruct table base inc check = some v → v.toNat = base.toNat + inc.toNat)

/-- R27, R28: an entry is its high byte times 256 plus its index, so its low byte is its index. -/
def Obligations.TableLowByteIsIndex : Prop :=
  ∀ (table : Vector Byte 256) (i : Byte),
    (romRead table i).toNat = (table[i.toFin]).toNat * 256 + i.toNat ∧ romRead table i &&& 0xFF#16 = i.setWidth 16

/-- R29: no operation, and no step, writes the redundancy table (nor the host's parameters). -/
def Obligations.TableIsNeverWritten : Prop :=
  (∀ i s t, exec i s = .next t →
    t.rtableHi = s.rtableHi ∧ t.modeTable = s.modeTable ∧ t.setConfigAck = s.setConfigAck) ∧
  (∀ s t, step s = .next t → t.rtableHi = s.rtableHi)

/-! ## The address registers and the composer -/

/-- R89 `LDADDR`: selector, all six registers, every 16-bit value accepted. -/
def Obligations.LdaddrLoadsFreshCommand : Prop :=
  ∀ src dst s, encode (.ldaddr src dst) = .op 0x4 [.u16 src, .u16 dst] ∧
    exec (.ldaddr src dst) s = .next { s with
      src := src, srcSet := true, dst := dst, dstSet := true, respCode := none, respData := none
      result := some (.ok .unit) }

/-- R90 `RDADDR`: selector; both registers when both are set; else the fault; nothing written. -/
def Obligations.RdaddrReturnsAddresses : Prop :=
  ∀ s, encode .rdaddr = .op 0x5 [] ∧
    (s.srcSet = true → s.dstSet = true →
      exec .rdaddr s = .next { s with result := some (.ok (.addresses s.src s.dst)) }) ∧
    (s.srcSet = false ∨ s.dstSet = false → ∃ w, exec .rdaddr s = .fault (.addressUnset w))

/-- R23: an instruction faults exactly when it reads an address register whose flag is false, and the fault is
`AddressUnset`. No command kind and no other operation ever faults. -/
def Obligations.FaultExactlyOnUnsetAddress : Prop :=
  ∀ i s, (readsUnset s i = true ↔ ∃ w, exec i s = .fault (.addressUnset w)) ∧
    (readsUnset s i = false → ∀ f, exec i s ≠ .fault f)

/-- R151 "which register is unset": what `AddressUnset` records. Where both are unset, `both` is the model's choice
(log 13). -/
def Obligations.UnsetFaultNamesTheRegister : Prop :=
  ∀ i s w, exec i s = .fault (.addressUnset w) →
    (w = .src → s.srcSet = false ∧ s.dstSet = true) ∧ (w = .dst → s.dstSet = false) ∧
    (w = .both → s.srcSet = false ∧ s.dstSet = false)

/-- R152: "a fault outcome that no later step clears": when the oldest issue is an operation that reads an unset address
register, every run of at least one step ends in the fault `AddressUnset`. -/
def Obligations.FaultIsNeverCleared : Prop :=
  ∀ s issue rest i, s.pending = issue :: rest → decode issue = .ok i → readsUnset s i = true →
    ∃ w, ∀ n, Host.Core.run core (n + 1) s = .fault (.addressUnset w)

/-- R91, R92, R93: with both addresses set and at most 254 data bytes, `COMPOSE` outputs the frame
`LE24(crc) ++ LE16(SRC) ++ LE16(DST) ++ [length] ++ [code] ++ data ++ [checksum]`, writing nothing. -/
def Obligations.ComposeBuildsRequestFrame : Prop :=
  ∀ code data s, s.srcSet = true → s.dstSet = true → data.length ≤ 254 →
    exec (.compose code data) s = .next { s with result := some (.ok (.frame
      (le24 (crc24 (le16 s.src ++ le16 s.dst ++ [BitVec.ofNat 8 (1 + data.length)])) ++
        (le16 s.src ++ le16 s.dst ++ [BitVec.ofNat 8 (1 + data.length)]) ++ (code :: data) ++
        [checksum (code :: data)]))) }

/-- R94, R156: with both addresses set, more than 254 data bytes raise `PayloadTooLong` and output no frame; with one
unset, `AddressUnset` comes first, whatever the length. -/
def Obligations.ComposeRefusesLongPayload : Prop :=
  ∀ code data s,
    (s.srcSet = true → s.dstSet = true → 254 < data.length →
      exec (.compose code data) s = .next { s with result := some (.raise (.payloadTooLong data.length)) }) ∧
    (s.srcSet = false ∨ s.dstSet = false → ∃ w, exec (.compose code data) s = .fault (.addressUnset w))

/-- R95: `COMPOSE` reads only `SRC`, `DST` and their flags. -/
def Obligations.ComposeDependsOnAddressesOnly : Prop :=
  ∀ code data s s' t, s'.src = s.src → s'.srcSet = s.srcSet → s'.dst = s.dst → s'.dstSet = s.dstSet →
    exec (.compose code data) s = .next t →
    t = { s with result := t.result } ∧ exec (.compose code data) s' = .next { s' with result := t.result }

/-- The composed frame is taken apart again: for every code and data of up to 254 bytes, the frame has `9 + length`
bytes, `HDR` of its first 8 bytes and `BODY` of the rest give its fields back, and `PARSE` of those fields is accepted
by any block whose destination is the sender (or the broadcast sentinel), which stores them and swaps the roles
(R48, R49, R55, R93, R97, R99, R108, R110). -/
def Obligations.ComposedFrameIsParsedBack : Prop :=
  ∀ code data s, s.srcSet = true → s.dstSet = true → data.length ≤ 254 →
    ∃ frame, exec (.compose code data) s = .next { s with result := some (.ok (.frame frame)) } ∧
      frame.length = 9 + (1 + data.length) ∧
      ∃ crc sum, (∀ r, exec (.hdr (frame.take 8)) r = .next { r with
            result := some (.ok (.header ⟨crc, s.src, s.dst, BitVec.ofNat 8 (1 + data.length)⟩)) }) ∧
        (∀ r, exec (.body (BitVec.ofNat 8 (1 + data.length)) (frame.drop 8)) r = .next { r with
            result := some (.ok (.body ⟨code, data, sum⟩)) }) ∧
        (∀ p, p.dstSet = true → (p.dst = s.src ∨ p.dst = 0x2FFF#16) →
          exec (.parse crc s.src s.dst (BitVec.ofNat 8 (1 + data.length)) code data sum) p = .next { p with
            src := s.dst, srcSet := true, dst := s.src, dstSet := true
            respCode := some code, respData := some data, result := some (.ok .unit) })

/-! ## The wire frame and the issue of an operation -/

/-- R48, R50, R55: the frame decoder and the frame encoder are inverse to each other, both ways: a frame whose length
byte counts its payload is read back from its bytes, and bytes that decode are the encoding of what they decode to. -/
def Obligations.FrameEncodeDecodeAgree : Prop :=
  (∀ f : Frame, f.lengthAgrees = true → decodeFrame (encodeFrame f) = some f) ∧
  (∀ bytes f, decodeFrame bytes = some f →
    f.lengthAgrees = true ∧ encodeFrame f = bytes ∧ bytes.length = f.header.length.toNat + 9)

/-- R60, R64: decoding what the encoder issues gives the instruction back, for every instruction; and an issue that
decodes is what the encoder issues for its instruction, but for the operands beside a reserved selector (the model's
choice, log 14). -/
def Obligations.IssueEncodeDecodeAgree : Prop :=
  (∀ i, decode (encode i) = .ok i) ∧
  (∀ issue i, decode issue = .ok i → encode i = issue ∨
    ∃ selector operands, issue = .op selector operands ∧ operandTypes selector = none ∧ encode i = .op selector [])

/-- R60, R61, R118: an issue decodes exactly when its operands are the typed operands of its selector's row or of its
command kind. That a reserved selector decodes with any operands (log 14), and that every other issue is rejected
(log 15), are the model's choices. -/
def Obligations.DecodesExactlyWellFormedIssues : Prop :=
  ∀ issue, issue.wellFormed = true ↔ ∃ i, decode issue = .ok i

/-- R64: "a decoder of the selector is total": each of the 16 selectors decodes to a block operation for some operands,
and an instruction decoded from a selector is encoded at that selector. -/
def Obligations.SelectorMapIsTotal : Prop :=
  (∀ selector : BitVec 4, ∃ operands i, decode (.op selector operands) = .ok i ∧ isBlockOperation i = true) ∧
  (∀ selector operands i, decode (.op selector operands) = .ok i → ∃ written, encode i = .op selector written)

/-- Words of spec/opcode_table.json, written out from the selector map of R60 and the command codes of R58. -/
def Obligations.TableWordsDecode : Prop :=
  decode (.op 0b0001 [.bytes [0x01, 0x00]]) = .ok (.crc24 [0x01, 0x00]) ∧
  decode (.op 0b0011 [.u16 0x1200, .u8 0x05, .u8 0xAB]) = .ok (.recon 0x1200 0x05 0xAB) ∧
  decode (.op 0b0110 [.u8 0x86, .bytes []]) = .ok (.compose 0x86 []) ∧
  decode (.op 0b1010 [.u24 0x6BC941, .u16 0x2F10, .u16 0x0001, .u8 3, .u8 0x86, .bytes [0x10, 0x2F], .u8 0xC4]) =
    .ok (.parse 0x6BC941 0x2F10 0x0001 3 0x86 [0x10, 0x2F] 0xC4) ∧
  decode (.op 0b1100 []) = .ok .reservedC ∧
  decode (.call 0b10000110 []) = .ok .getNetworkId ∧
  decode (.call 0b10000101 [.u16 0x0010]) = .ok (.getHistory 0x0010)

/-- R62, R156: issuing a reserved selector, whatever operands stand beside it (the model's choice, log 14), raises
`IllegalOperation` with that selector and writes no register; the next step takes the next operation. -/
def Obligations.ReservedSelectorRaisesIllegal : Prop :=
  ∀ selector operands rest (s : State), selector ∈ [0x0#4, 0xC#4, 0xD#4, 0xE#4, 0xF#4] →
    step { s with pending := .op selector operands :: rest } =
      .next { s with pending := rest, result := some (.raise (.illegalOperation selector)) }

/-- R62 by instruction: each of the five reserved instructions completes by raising its selector. -/
def Obligations.ReservedInstructionsRaise : Prop :=
  ∀ s, exec .reserved0 s = .next { s with result := some (.raise (.illegalOperation 0x0)) } ∧
    exec .reservedC s = .next { s with result := some (.raise (.illegalOperation 0xC)) } ∧
    exec .reservedD s = .next { s with result := some (.raise (.illegalOperation 0xD)) } ∧
    exec .reservedE s = .next { s with result := some (.raise (.illegalOperation 0xE)) } ∧
    exec .reservedF s = .next { s with result := some (.raise (.illegalOperation 0xF)) }

/-! ## The parser -/

/-- R97, R98 `HDR`: selector; the four fields of 8 bytes; `NoResponse` for none; `FramingError` for any other count;
nothing written. -/
def Obligations.HdrExtractsFields : Prop :=
  (∀ h, encode (.hdr h) = .op 0x7 [.bytes h]) ∧
  (∀ c0 c1 c2 s0 s1 d0 d1 l s, exec (.hdr [c0, c1, c2, s0, s1, d0, d1, l]) s = .next { s with
    result := some (.ok (.header {
      crc := BitVec.ofNat 24 (c0.toNat + 256 * c1.toNat + 65536 * c2.toNat)
      src := BitVec.ofNat 16 (s0.toNat + 256 * s1.toNat)
      dst := BitVec.ofNat 16 (d0.toNat + 256 * d1.toNat)
      length := l })) }) ∧
  (∀ s, exec (.hdr []) s = .next { s with result := some (.raise .noResponse) }) ∧
  (∀ h s, h.length ≠ 0 → h.length ≠ 8 →
    exec (.hdr h) s = .next { s with result := some (.raise (.framingError (.exactly 8) h.length)) })

/-- R99 `BODY`: selector; code, data and checksum of `length + 1` bytes; `FramingError` for a wrong count, and for
length 0 with the right count; nothing written. -/
def Obligations.BodyExtractsFields : Prop :=
  (∀ length b, encode (.body length b) = .op 0x8 [.u8 length, .bytes b]) ∧
  (∀ (length : Byte) code data sum s, length.toNat = 1 + data.length →
    exec (.body length (code :: data ++ [sum])) s = .next { s with result := some (.ok (.body ⟨code, data, sum⟩)) }) ∧
  (∀ (length : Byte) b s, b.length ≠ length.toNat + 1 →
    exec (.body length b) s = .next { s with
      result := some (.raise (.framingError (.exactly (length.toNat + 1)) b.length)) }) ∧
  (∀ x s, exec (.body 0 [x]) s = .next { s with result := some (.raise (.framingError (.exactly 1) 0)) })

/-- R103, R104, R105 `SRCMATCH`: selector; with `DST` set, a discovered source is adopted and matches; otherwise the
verdict is equality and nothing is written; with `DST` unset, the fault. -/
def Obligations.SrcmatchDiscoversAndMatches : Prop :=
  ∀ src s, encode (.srcmatch src) = .op 0x9 [.u16 src] ∧
    (s.dstSet = true → s.dst = 0x2FFF#16 → discoverable src →
      exec (.srcmatch src) s = .next { s with dst := src, result := some (.ok (.matched true)) }) ∧
    (s.dstSet = true → ¬ (s.dst = 0x2FFF#16 ∧ discoverable src) →
      exec (.srcmatch src) s = .next { s with result := some (.ok (.matched (src == s.dst))) }) ∧
    (s.dstSet = false → exec (.srcmatch src) s = .fault (.addressUnset .dst))

/-- R106 (d): once a source was discovered, a `SRCMATCH` with any other source does not match and keeps `DST`. -/
def Obligations.DiscoveryHappensOnce : Prop :=
  ∀ first second s t, s.dstSet = true → s.dst = 0x2FFF#16 → discoverable first → second ≠ first →
    exec (.srcmatch first) s = .next t →
    exec (.srcmatch second) t = .next { t with result := some (.ok (.matched false)) } ∧ t.dst = first

/-- R108, R110, R111 `PARSE`: selector; the checks in order, each with what it records; on success the role swap and
the store; on any error no register is written. -/
def Obligations.ParseChecksInOrder : Prop :=
  ∀ crc src dst length code data sum s,
    encode (.parse crc src dst length code data sum) =
      .op 0xA [.u24 crc, .u16 src, .u16 dst, .u8 length, .u8 code, .bytes data, .u8 sum] ∧
    exec (.parse crc src dst length code data sum) s =
      if s.dstSet = false then .fault (.addressUnset .dst)
      else if length.toNat ≠ 1 + data.length then
        .next { s with result := some (.raise (.framingError (.exactly length.toNat) (1 + data.length))) }
      else if crc24 (le16 src ++ le16 dst ++ [length]) ≠ crc then
        .next { s with result := some (.raise (.crcMismatch (crc24 (le16 src ++ le16 dst ++ [length])) crc)) }
      else if checksum (code :: data) ≠ sum then
        .next { s with result := some (.raise (.checksumMismatch (checksum (code :: data)) sum)) }
      else if ¬ (s.dst = 0x2FFF#16 ∨ s.dst = src) then
        .next { s with result := some (.raise (.addressMismatch s.dst src)) }
      else .next { s with
        src := dst, srcSet := true, dst := src, dstSet := true, respCode := some code, respData := some data
        result := some (.ok .unit) }

/-- R110: a response that passes every check completes `PARSE` with the role swap and the store. -/
def Obligations.AcceptedResponseSwapsRoles : Prop :=
  ∀ (f : Frame) s, s.dstSet = true → f.lengthAgrees = true → intact f →
    (s.dst = 0x2FFF#16 ∨ s.dst = f.header.src) →
    exec (.parse f.header.crc f.header.src f.header.dst f.header.length f.body.code f.body.data f.body.checksum) s =
      .next { s with
        src := f.header.dst, srcSet := true, dst := f.header.src, dstSet := true
        respCode := some f.body.code, respData := some f.body.data, result := some (.ok .unit) }

/-- From R111, R109 and R70: whatever one byte of the five covered header bytes was corrupted to, `PARSE` of the
corrupted header raises and writes no register: `FramingError` when its length byte no longer counts the payload (a
corrupted length byte beside unchanged data), and `CrcMismatch` when it still does. -/
def Obligations.CorruptedHeaderByteIsCaught : Prop :=
  ∀ (before after : Bytes) (a b : Byte) src dst src' dst' length length' code data sum s,
    s.dstSet = true → a ≠ b →
    le16 src ++ le16 dst ++ [length] = before ++ a :: after →
    le16 src' ++ le16 dst' ++ [length'] = before ++ b :: after →
    let crc := crc24 (le16 src ++ le16 dst ++ [length])
    let raises := fun c => exec (.parse crc src' dst' length' code data sum) s =
      .next { s with result := some (.raise c) }
    (length'.toNat ≠ 1 + data.length → raises (.framingError (.exactly length'.toNat) (1 + data.length))) ∧
    (length'.toNat = 1 + data.length → raises (.crcMismatch (crc24 (le16 src' ++ le16 dst' ++ [length'])) crc))

/-- R107: a discovered `DST` stays when the following `PARSE` raises. -/
def Obligations.DiscoverySurvivesFailedParse : Prop :=
  ∀ src s t crc psrc pdst length code data sum u c, s.dstSet = true → s.dst = 0x2FFF#16 → discoverable src →
    exec (.srcmatch src) s = .next t → exec (.parse crc psrc pdst length code data sum) t = .next u →
    u.result = some (.raise c) → u.dst = src ∧ u.respCode = s.respCode ∧ u.respData = s.respData

/-- R113 `RDRESP`: selector; the stored response, no error, nothing written. -/
def Obligations.RdrespReturnsStoredResponse : Prop :=
  ∀ s, encode .rdresp = .op 0xB [] ∧
    exec .rdresp s = .next { s with result := some (.ok (.response s.respCode s.respData)) }

/-! ## The whole machine -/

/-- A step runs the decoded instruction: the oldest issue leaves the queue and its instruction runs on the state
without it; with nothing issued the state is held (log 3); an issue that does not decode is refused by name (log 15). -/
def Obligations.StepRunsDecodedInstruction : Prop :=
  (∀ s issue rest i, s.pending = issue :: rest → decode issue = .ok i → step s = exec i { s with pending := rest }) ∧
  (∀ s, s.pending = [] → step s = .next s) ∧
  (∀ s issue rest e, s.pending = issue :: rest → decode issue = .error e → step s = .refused (refusalOf e))

/-- R42, R155: a block operation that raises writes no register: only its result is reported. -/
def Obligations.RaisingOperationWritesNothing : Prop :=
  ∀ i s t c, isBlockOperation i = true → exec i s = .next t → t.result = some (.raise c) →
    t = { s with result := some (.raise c) }

/-- R30, R43, the frame of the block operations: the host's state, the table and the queue are untouched by all; all
but LDADDR, SRCMATCH and PARSE write no register; SRCMATCH writes at most `DST`. -/
def Obligations.BlockOperationsKeepTheirFrame : Prop :=
  ∀ i s t, isBlockOperation i = true → exec i s = .next t →
    t = { s with
      src := t.src, srcSet := t.srcSet, dst := t.dst, dstSet := t.dstSet, respCode := t.respCode
      respData := t.respData, result := t.result } ∧
    (writesRegisters i = false → t = { s with result := t.result }) ∧
    (∀ src, i = .srcmatch src → t = { s with dst := t.dst, result := t.result })

/-- The frame of the command kinds: an exchange leaves the table, the host's parameters and the queue as they were. -/
def Obligations.ExchangesKeepTheirFrame : Prop :=
  ∀ k s t, exec (instrOf k) s = .next t →
    t.rtableHi = s.rtableHi ∧ t.modeTable = s.modeTable ∧ t.setConfigAck = s.setConfigAck ∧ t.pending = s.pending

/-- R19 "Nothing else in the block persists from one operation to the next": the result of the latest operation is
read by no instruction. -/
def Obligations.ResultIsNeverRead : Prop :=
  ∀ i s r, exec i { s with result := r } = exec i s

/-- R19, R86, R102: what a block operation does to the registers, and its result, depend on the registers alone: not
on the host's state, on the Transport or on the queue. -/
def Obligations.BlockDependsOnRegistersOnly : Prop :=
  ∀ i s s' t, isBlockOperation i = true → s'.registers = s.registers → exec i s = .next t →
    ∃ t', exec i s' = .next t' ∧ t'.registers = t.registers ∧ t'.result = t.result

/-- R21 "no operation can observe the unspecified SRC value" (and R22, R166 for `DST`): two states that differ only in
address registers whose flags are false step alike, up to such registers. -/
def Obligations.UnsetAddressIsUnobservable : Prop :=
  ∀ s s', agreeButUnset s s' → sameOutcome (step s) (step s')

/-- R166: the state after reset. -/
def Obligations.ResetStateAsSpecified : Prop :=
  State.reset.srcSet = false ∧ State.reset.dstSet = false ∧ State.reset.respCode = none ∧
  State.reset.respData = none ∧
  ∀ i : Byte, (romRead State.reset.rtableHi i).toNat = (Config.rtableHi i.toFin).toNat * 256 + i.toNat

/-- The invariant holds right after reset. -/
def Obligations.InvariantHoldsAtReset : Prop := State.reset.Inv

/-- Every step keeps the invariant (R26; the equal flags of 95_test_vectors.md 2.9; the bijection of R10). -/
def Obligations.StepKeepsInvariant : Prop := ∀ s t, s.Inv → step s = .next t → t.Inv

/-! ## The command catalog -/

/-- R118, R120, R121, R123, R125, R127: the code and the data of each kind's request, and the response code each kind
expects. The mode's index is one at which the mode table holds it. -/
def Obligations.RequestsAreTheCatalogs : Prop :=
  (∀ table, encodeRequest table .getNetworkId = (0x86#8, []) ∧ encodeRequest table .getConfig = (0x80#8, []) ∧
    ∀ counterId, encodeRequest table (.getLastPacket counterId) = (0x82#8, le16 counterId) ∧
      encodeRequest table (.getHistory counterId) = (0x85#8, le16 counterId)) ∧
  (∀ (table : Vector Mode 4) (c : MeterConfig), table.toList.Nodup → ∃ (index : Fin 4) (g : Byte),
    table[index] = c.mode ∧ encodeRequest table (.setConfig c) = (0x00#8, le16 c.counters ++ [g]) ∧
    g.toNat = c.transparentMode.toNat + 2 * c.zeroThreshold.toNat + 4 * index.val + 16 * c.dst.toNat +
      32 * c.plcDisabled.toNat) ∧
  (∀ ack, expectedCode ack .getNetworkId = 0x86#8 ∧ expectedCode ack .getConfig = 0x80#8 ∧
    (∀ c, expectedCode ack (.setConfig c) = ack) ∧
    ∀ counterId, expectedCode ack (.getLastPacket counterId) = 0x82#8 ∧ expectedCode ack (.getHistory counterId) = 0x85#8)

/-- R131: for every bijective mode table and every Config record, decoding the encoded data gives the record back. -/
def Obligations.ConfigRoundTrips : Prop :=
  ∀ (table : Vector Mode 4) (c : MeterConfig), table.toList.Nodup →
    decodeConfig table (encodeRequest table (.setConfig c)).2 = .ok (.config c)

/-- R122: bits 7:6 of the config byte are ignored on decode and written 0 on encode: re-encoding what a config byte
decodes to gives its low six bits. -/
def Obligations.ConfigByteKeepsLowSixBits : Prop :=
  ∀ (table : Vector Mode 4) (counters : Addr) (g : Byte), table.toList.Nodup →
    configByte table (configOf table counters g) = g &&& 0x3F#8

/-- R130: the date is the decoded one exactly when it is a calendar date and time (month lengths and leap years from
general knowledge, log 20). -/
def Obligations.DateExactlyWhenValid : Prop :=
  ∀ (y mo d h mi : Byte) (date : DateTime), mkDate y mo d h mi = some date ↔
    date = ⟨2000 + y.toNat, mo.toNat + 1, d.toNat + 1, h.toNat, mi.toNat⟩ ∧ h.toNat ≤ 23 ∧ mi.toNat ≤ 59 ∧
    (mo.toNat + 1 ∈ [1, 3, 5, 7, 8, 10, 12] ∧ d.toNat + 1 ≤ 31 ∨
     mo.toNat + 1 ∈ [4, 6, 9, 11] ∧ d.toNat + 1 ≤ 30 ∨
     mo.toNat + 1 = 2 ∧ (d.toNat + 1 ≤ 28 ∨ d.toNat + 1 = 29 ∧
       (4 ∣ 2000 + y.toNat ∧ ¬ 100 ∣ 2000 + y.toNat ∨ 400 ∣ 2000 + y.toNat)))

/-- R117, R119: with a stored response of another code than the kind's expected one, every decoder raises
`DecodeError` with both codes, whatever the payload. -/
def Obligations.WrongResponseCodeIsDecodeError : Prop :=
  ∀ k s code data, s.respCode = some code → s.respData = some data → code ≠ expectedCode s.setConfigAck k →
    decodeResponse s k = .error (.decodeError (expectedCode s.setConfigAck k).toNat (some code.toNat))

/-- R116, R117, R119: a stored response of the code its kind expects is given to that kind's payload decoder, for each
of the five kinds. R120, R121, R126: the fixed-length decoders, and `DecodeError` with both lengths for any other
payload length. -/
def Obligations.FixedLengthPayloadsDecode : Prop :=
  (∀ s k d, s.respCode = some (expectedCode s.setConfigAck k) → s.respData = some d →
    (k = .getNetworkId → decodeResponse s k = decodeNetworkId d) ∧
    (k = .getConfig → decodeResponse s k = decodeConfig s.modeTable d) ∧
    (∀ c, k = .setConfig c → decodeResponse s k = decodeConfig s.modeTable d) ∧
    (∀ counterId, k = .getLastPacket counterId → decodeResponse s k = decodeLastPacket s.rtableHi d) ∧
    (∀ counterId, k = .getHistory counterId → decodeResponse s k = decodeHistory s.rtableHi counterId d)) ∧
  (∀ a b, decodeNetworkId [a, b] = .ok (.networkId (BitVec.ofNat 16 (a.toNat + 256 * b.toNat)))) ∧
  (∀ d, d.length ≠ 2 → decodeNetworkId d = .error (.decodeError 2 (some d.length))) ∧
  (∀ table a b g, decodeConfig table [a, b, g] =
    .ok (.config (configOf table (BitVec.ofNat 16 (a.toNat + 256 * b.toNat)) g))) ∧
  (∀ table d, d.length ≠ 3 → decodeConfig table d = .error (.decodeError 3 (some d.length))) ∧
  (∀ table, decodeLastPacket table [] = .ok (.lastPacket none)) ∧
  (∀ table a0 a1 type b0 b1 inc check level minute hour day month year,
    decodeLastPacket table [a0, a1, type, b0, b1, inc, check, level, minute, hour, day, month, year] =
      .ok (.lastPacket (some (BitVec.ofNat 16 (a0.toNat + 256 * a1.toNat),
        { level := level, type := type
          value := reconstruct table (BitVec.ofNat 16 (b0.toNat + 256 * b1.toNat)) inc check
          date := mkDate year month day hour minute })))) ∧
  (∀ table d, d.length ≠ 0 → d.length ≠ 13 → decodeLastPacket table d = .error (.decodeError 13 (some d.length)))

/-- R127, R128, R129: after a stored response of the expected code, a payload of the echoed counter id and `n` whole
chunks decodes to exactly `n` records, record `j` from chunk `j` (its value by the state's redundancy table); an empty
payload to none. -/
def Obligations.HistoryDecodesEveryChunkInOrder : Prop :=
  ∀ s counterId, decodedAs s (.getHistory counterId) [] = .ok (.history []) ∧
    ∀ rest n, rest.length = 11 * n →
      ∃ records, decodedAs s (.getHistory counterId) (le16 counterId ++ rest) = .ok (.history records) ∧
        records.length = n ∧
        ∀ j, j < n → records[j]? = some (recordAt s.rtableHi ((rest.drop (11 * j)).take 11))

/-- R128, R119: the errors of the history decoder after a stored response of the expected code, in their order: one
byte, another counter id, a remainder that is no multiple of 11. -/
def Obligations.HistoryErrorsInOrder : Prop :=
  ∀ s counterId,
    (∀ a, decodedAs s (.getHistory counterId) [a] = .error (.decodeError 2 (some 1))) ∧
    (∀ (echoed : Addr) rest, echoed ≠ counterId →
      decodedAs s (.getHistory counterId) (le16 echoed ++ rest) = .error (.addressMismatch counterId echoed)) ∧
    (∀ rest, ¬ 11 ∣ rest.length → decodedAs s (.getHistory counterId) (le16 counterId ++ rest) =
      .error (.framingError (.multipleOf 11) rest.length))

/-! ## The host's exchange -/

/-- The exchange of a command kind (R136 to R140, R142, R137, R144; one step: log 9; the session stored before the
decoder runs: log 23): on a line that can be made ready (opened, configured, or ready already: log 11), whatever stale
bytes it holds, after at most four frames from foreign sources, an intact frame from the expected source (equal to the
session destination, or discovered under the broadcast sentinel) ends the exchange. The line was made ready, flushed,
and the request written whole in one write; each attempt read 8 and then `length + 1` bytes; the roles are swapped, the
response is stored, the session addresses are the swapped ones, and the result is what the kind's decoder gives. Each
of the five command kinds completes so. -/
def Obligations.ExchangeReturnsDecodedResponse : Prop :=
  ∀ k s foreign f left rest, lineReady s → foreign.length ≤ 4 →
    (∀ g ∈ foreign, g.lengthAgrees = true ∧ ¬ fromExpected s.sessDst g.header.src) →
    f.lengthAgrees = true → intact f → fromExpected s.sessDst f.header.src →
    afterReads [] s.transport.reads (chunksOf (foreign ++ [f])) = some (left, rest) →
    exec (instrOf k) s = .next { s with
      src := f.header.dst, srcSet := true, dst := f.header.src, dstSet := true
      respCode := some f.body.code, respData := some f.body.data
      sessSrc := f.header.dst, sessDst := f.header.src
      transport := lineAfter s k (foreign ++ [f]) left rest
      result := some (match decodeResponse { s with respCode := some f.body.code, respData := some f.body.data } k with
        | .ok d => .ok (.decoded d)
        | .error c => .raise c) }

/-- R140, R142 (one step: log 9): on a line that can be made ready (log 11), five frames from foreign sources exhaust the
attempts; the result is `RetryLimitExceeded`, no sixth header is read, and the addresses are the ones loaded. -/
def Obligations.FiveMismatchesExhaustRetries : Prop :=
  ∀ k s foreign left rest, lineReady s → foreign.length = 5 →
    (∀ g ∈ foreign, g.lengthAgrees = true ∧ ¬ fromExpected s.sessDst g.header.src) →
    afterReads [] s.transport.reads (chunksOf foreign) = some (left, rest) →
    exec (instrOf k) s = .next (failed s (lineAfter s k foreign left rest) .retryLimitExceeded)

/-- R141, R109, R156: a frame from the expected source with a wrong CRC ends the exchange with `CrcMismatch`, one with a
right CRC and a wrong checksum with `ChecksumMismatch`, each with the recomputed and the received value: no retry, the
session addresses kept, a discovered destination kept (R107). That the exchange is one step (log 9) and which calls make
the line ready before it (log 11) are the model's choices. -/
def Obligations.CorruptedExpectedFrameIsFatal : Prop :=
  ∀ k s foreign f left rest, lineReady s → foreign.length ≤ 4 →
    (∀ g ∈ foreign, g.lengthAgrees = true ∧ ¬ fromExpected s.sessDst g.header.src) →
    f.lengthAgrees = true → fromExpected s.sessDst f.header.src →
    afterReads [] s.transport.reads (chunksOf (foreign ++ [f])) = some (left, rest) →
    let crc := crc24 (le16 f.header.src ++ le16 f.header.dst ++ [f.header.length])
    let sum := checksum (f.body.code :: f.body.data)
    let after := fun c => { failed s (lineAfter s k (foreign ++ [f]) left rest) c with dst := f.header.src }
    (crc ≠ f.header.crc → exec (instrOf k) s = .next (after (.crcMismatch crc f.header.crc))) ∧
    (crc = f.header.crc → sum ≠ f.body.checksum →
      exec (instrOf k) s = .next (after (.checksumMismatch sum f.body.checksum)))

/-- R139, R146, R97, R99: after at most four frames from foreign sources, a bad read ends the exchange at once. Of the
header read: a Transport error is `TransportFault`, no bytes are `NoResponse`, a count other than 8 is a `FramingError`.
Of the body read after a header `h` was read: a Transport error is `TransportFault`, a count other than `length + 1`
(no bytes among them) is a `FramingError`, and so is length 0 with its one byte. The Transport is as that read leaves
it. That the exchange is one step (log 9), which calls make the line ready before it (log 11), and what a failed read
leaves of the line and of its buffers (log 25) are the model's choices. -/
def Obligations.BadReadEndsExchange : Prop :=
  ∀ k s foreign left rest, lineReady s → foreign.length ≤ 4 →
    (∀ g ∈ foreign, g.lengthAgrees = true ∧ ¬ fromExpected s.sessDst g.header.src) →
    afterReads [] s.transport.reads (chunksOf foreign) = some (left, rest) →
    ∀ line outcome, (lineAfter s k foreign left rest).read 8 = (line, outcome) →
      (∀ e, outcome = .error e → exec (instrOf k) s = .next (failed s line (.transportFault e))) ∧
      (outcome = .ok [] → exec (instrOf k) s = .next (failed s line .noResponse)) ∧
      (∀ b, outcome = .ok b → b.length ≠ 0 → b.length ≠ 8 →
        exec (instrOf k) s = .next (failed s line (.framingError (.exactly 8) b.length))) ∧
      ∀ h : Header, outcome = .ok (encodeHeader h) →
        ∀ line' outcome', line.read (h.length.toNat + 1) = (line', outcome') →
          (∀ e, outcome' = .error e → exec (instrOf k) s = .next (failed s line' (.transportFault e))) ∧
          (∀ b, outcome' = .ok b → b.length ≠ h.length.toNat + 1 →
            exec (instrOf k) s = .next (failed s line' (.framingError (.exactly (h.length.toNat + 1)) b.length))) ∧
          (∀ b, outcome' = .ok b → h.length = 0 → b.length = 1 →
            exec (instrOf k) s = .next (failed s line' (.framingError (.exactly 1) 0)))

/-- R138, R144: a failing open, configure, flush or write ends the exchange with `TransportFault`, and nothing is called
after it. That the exchange is one step (log 9), that the addresses are loaded by then (log 12), which calls make the
line ready (log 11), and what a failure leaves of the line and of its buffers (log 25) are the model's choices: the
flush that failed discarded nothing, and after the write that failed the bytes it did not send are unwritten. -/
def Obligations.FailedSendStepEndsExchange : Prop :=
  ∀ k s (f : LineFailure) rest,
    let line := s.transport
    let ready := readyCalls line
    let ends := fun t => exec (instrOf k) s = .next (failed s (lineLost f t) (.transportFault f.error))
    (.openLine ∈ ready → line.calls = .failed f :: rest →
      ends { line with calls := rest, log := line.log ++ [.openLine] }) ∧
    (.configure ∈ ready → line.calls = List.replicate (ready.length - 1) .done ++ .failed f :: rest →
      ends { line with isOpen := true, configured := false, calls := rest, log := line.log ++ ready }) ∧
    (line.calls = List.replicate ready.length .done ++ .failed f :: rest →
      ends { line with isOpen := true, configured := true, calls := rest, log := line.log ++ ready ++ [.flush] }) ∧
    (line.calls = List.replicate (ready.length + 1) .done ++ .failed f :: rest →
      ends { line with
        isOpen := true, configured := true, incoming := [], calls := rest, log := line.log ++ ready ++ sendCalls s k
        unwritten := (encodeFrame (requestFrame s.sessSrc s.sessDst (encodeRequest s.modeTable k).1
          (encodeRequest s.modeTable k).2)).drop f.sent })

/-- R136, R153, R137: an exchange never stops the machine: from every state it answers a next state whose result is a
decoded result or one raised cause, with both addresses set. After a decoded result the session addresses are the
block's and a response is stored; after a raised cause that left no response stored they are what they were. That the
exchange is one step (log 9), and that both addresses are set also where the open or the configure failed (`LDADDR`
comes before the open: log 12; R170 allows the other order), are the model's choices. -/
def Obligations.ExchangeAlwaysCompletes : Prop :=
  ∀ k s, ∃ t, exec (instrOf k) s = .next t ∧ t.srcSet = true ∧ t.dstSet = true ∧
    (((∃ d, t.result = some (.ok (.decoded d))) ∧ t.sessSrc = t.src ∧ t.sessDst = t.dst ∧ t.respCode.isSome = true) ∨
      ∃ c, t.result = some (.raise c) ∧
        (t.respCode = none → t.sessSrc = s.sessSrc ∧ t.sessDst = s.sessDst))

/-- R138, R140: in one exchange the host makes at most ten reads (a header and a body for each of five attempts) and at
most one write, the whole request frame. -/
def Obligations.ExchangeReadsAtMostFiveFrames : Prop :=
  ∀ k s t, exec (instrOf k) s = .next t →
    ∃ made, t.transport.log = s.transport.log ++ made ∧ made.countP isRead ≤ 10 ∧ made.countP isWrite ≤ 1 ∧
      ∀ b, .write b ∈ made → b = encodeFrame (requestFrame s.sessSrc s.sessDst (encodeRequest s.modeTable k).1
        (encodeRequest s.modeTable k).2)
end

