-- ==== Sys2Proof/Laws/State.lean ====
section
/-! SUPPORT. One lemma per field of `State` for each named update, true by `rfl`, so that no proof unfolds an update. -/

namespace Sys2Proof.Machine

variable (s : State)

/-! ## `loadAddresses` -/

@[simp] theorem loadAddresses_src (src dst : Addr) : (loadAddresses s src dst).src = src := rfl
@[simp] theorem loadAddresses_srcSet (src dst : Addr) : (loadAddresses s src dst).srcSet = true := rfl
@[simp] theorem loadAddresses_dst (src dst : Addr) : (loadAddresses s src dst).dst = dst := rfl
@[simp] theorem loadAddresses_dstSet (src dst : Addr) : (loadAddresses s src dst).dstSet = true := rfl
@[simp] theorem loadAddresses_respCode (src dst : Addr) : (loadAddresses s src dst).respCode = none := rfl
@[simp] theorem loadAddresses_respData (src dst : Addr) : (loadAddresses s src dst).respData = none := rfl
@[simp] theorem loadAddresses_rtableHi (src dst : Addr) : (loadAddresses s src dst).rtableHi = s.rtableHi := rfl
@[simp] theorem loadAddresses_modeTable (src dst : Addr) : (loadAddresses s src dst).modeTable = s.modeTable := rfl
@[simp] theorem loadAddresses_setConfigAck (src dst : Addr) : (loadAddresses s src dst).setConfigAck = s.setConfigAck := rfl
@[simp] theorem loadAddresses_sessSrc (src dst : Addr) : (loadAddresses s src dst).sessSrc = s.sessSrc := rfl
@[simp] theorem loadAddresses_sessDst (src dst : Addr) : (loadAddresses s src dst).sessDst = s.sessDst := rfl
@[simp] theorem loadAddresses_transport (src dst : Addr) : (loadAddresses s src dst).transport = s.transport := rfl
@[simp] theorem loadAddresses_pending (src dst : Addr) : (loadAddresses s src dst).pending = s.pending := rfl
@[simp] theorem loadAddresses_result (src dst : Addr) : (loadAddresses s src dst).result = s.result := rfl

/-! ## `acceptResponse` -/

@[simp] theorem acceptResponse_src (f : Frame) : (acceptResponse s f).src = f.header.dst := rfl
@[simp] theorem acceptResponse_srcSet (f : Frame) : (acceptResponse s f).srcSet = true := rfl
@[simp] theorem acceptResponse_dst (f : Frame) : (acceptResponse s f).dst = f.header.src := rfl
@[simp] theorem acceptResponse_dstSet (f : Frame) : (acceptResponse s f).dstSet = true := rfl
@[simp] theorem acceptResponse_respCode (f : Frame) : (acceptResponse s f).respCode = some f.body.code := rfl
@[simp] theorem acceptResponse_respData (f : Frame) : (acceptResponse s f).respData = some f.body.data := rfl
@[simp] theorem acceptResponse_rtableHi (f : Frame) : (acceptResponse s f).rtableHi = s.rtableHi := rfl
@[simp] theorem acceptResponse_modeTable (f : Frame) : (acceptResponse s f).modeTable = s.modeTable := rfl
@[simp] theorem acceptResponse_setConfigAck (f : Frame) : (acceptResponse s f).setConfigAck = s.setConfigAck := rfl
@[simp] theorem acceptResponse_sessSrc (f : Frame) : (acceptResponse s f).sessSrc = s.sessSrc := rfl
@[simp] theorem acceptResponse_sessDst (f : Frame) : (acceptResponse s f).sessDst = s.sessDst := rfl
@[simp] theorem acceptResponse_transport (f : Frame) : (acceptResponse s f).transport = s.transport := rfl
@[simp] theorem acceptResponse_pending (f : Frame) : (acceptResponse s f).pending = s.pending := rfl
@[simp] theorem acceptResponse_result (f : Frame) : (acceptResponse s f).result = s.result := rfl

/-! ## `issueFirst` and `takeIssue` -/

@[simp] theorem issueFirst_src (issue : Issue) : (issueFirst s issue).src = s.src := rfl
@[simp] theorem issueFirst_srcSet (issue : Issue) : (issueFirst s issue).srcSet = s.srcSet := rfl
@[simp] theorem issueFirst_dst (issue : Issue) : (issueFirst s issue).dst = s.dst := rfl
@[simp] theorem issueFirst_dstSet (issue : Issue) : (issueFirst s issue).dstSet = s.dstSet := rfl
@[simp] theorem issueFirst_respCode (issue : Issue) : (issueFirst s issue).respCode = s.respCode := rfl
@[simp] theorem issueFirst_respData (issue : Issue) : (issueFirst s issue).respData = s.respData := rfl
@[simp] theorem issueFirst_rtableHi (issue : Issue) : (issueFirst s issue).rtableHi = s.rtableHi := rfl
@[simp] theorem issueFirst_modeTable (issue : Issue) : (issueFirst s issue).modeTable = s.modeTable := rfl
@[simp] theorem issueFirst_setConfigAck (issue : Issue) : (issueFirst s issue).setConfigAck = s.setConfigAck := rfl
@[simp] theorem issueFirst_sessSrc (issue : Issue) : (issueFirst s issue).sessSrc = s.sessSrc := rfl
@[simp] theorem issueFirst_sessDst (issue : Issue) : (issueFirst s issue).sessDst = s.sessDst := rfl
@[simp] theorem issueFirst_transport (issue : Issue) : (issueFirst s issue).transport = s.transport := rfl
@[simp] theorem issueFirst_pending (issue : Issue) : (issueFirst s issue).pending = issue :: s.pending := rfl
@[simp] theorem issueFirst_result (issue : Issue) : (issueFirst s issue).result = s.result := rfl

theorem takeIssue_issueFirst (issue : Issue) : takeIssue (issueFirst s issue) = some (issue, s) := rfl

theorem takeIssue_nil (h : s.pending = []) : takeIssue s = none := by simp [takeIssue, h]

theorem takeIssue_cons {issue : Issue} {rest : List Issue} (h : s.pending = issue :: rest) :
    takeIssue s = some (issue, { s with pending := rest }) := by simp [takeIssue, h]

end Sys2Proof.Machine
end

