-- ==== Sys2Proof/Laws/Ops.lean ====
section
/-! SUPPORT. What each shared operation can do, said once: the guarded reads, the composer, the source match, the
response checks, and the report of a result. -/

namespace Sys2Proof.Machine

open Host (Outcome)

/-! ## Guarded reads -/

theorem readDst_set {s : State} (h : s.dstSet = true) : readDst s = .ok s.dst := by simp [readDst, h]

theorem readDst_unset {s : State} (h : s.dstSet = false) : readDst s = .error (.addressUnset .dst) := by
  simp [readDst, h]

theorem readAddresses_set {s : State} (h : s.srcSet = true) (h' : s.dstSet = true) :
    readAddresses s = .ok (s.src, s.dst) := by simp [readAddresses, h, h']

theorem readAddresses_unset {s : State} (h : (!s.srcSet || !s.dstSet) = true) :
    ∃ w, readAddresses s = .error (.addressUnset w) := by
  unfold readAddresses
  cases h1 : s.srcSet <;> cases h2 : s.dstSet <;> simp_all

/-- A guarded read of both registers depends on them and their flags only. -/
theorem readAddresses_congr {s t : State} (h1 : t.srcSet = s.srcSet) (h2 : t.dstSet = s.dstSet)
    (h3 : s.srcSet = true → t.src = s.src) (h4 : s.dstSet = true → t.dst = s.dst) :
    readAddresses t = readAddresses s := by
  unfold readAddresses
  cases h : s.srcSet <;> cases h' : s.dstSet <;> simp_all

theorem readDst_congr {s t : State} (h2 : t.dstSet = s.dstSet) (h4 : s.dstSet = true → t.dst = s.dst) :
    readDst t = readDst s := by
  unfold readDst
  cases h' : s.dstSet <;> simp_all

/-! ## The composer -/

theorem composeFrame_set {s : State} (h : s.srcSet = true) (h' : s.dstSet = true) (code : Byte) (data : Bytes) :
    composeFrame s code data =
      if data.length > 254 then .error (.payloadTooLong data.length)
      else .ok (le24 (crc24 (crcCoverage s.src s.dst (BitVec.ofNat 8 (payload code data).length))) ++
        crcCoverage s.src s.dst (BitVec.ofNat 8 (payload code data).length) ++ payload code data ++
        [checksum (payload code data)]) := by
  simp [composeFrame, readAddresses_set h h', Config.maxData]

theorem composeFrame_unset {s : State} (h : (!s.srcSet || !s.dstSet) = true) (code : Byte) (data : Bytes) :
    ∃ w, composeFrame s code data = .error (.addressUnset w) := by
  obtain ⟨w, hw⟩ := readAddresses_unset h
  exact ⟨w, by simp [composeFrame, hw]⟩

/-- `composeFrame` is a function of the guarded read alone. -/
theorem composeFrame_congr {s t : State} (h : readAddresses t = readAddresses s) (code : Byte) (data : Bytes) :
    composeFrame t code data = composeFrame s code data := by
  unfold composeFrame; rw [h]

/-- The errors of `composeFrame`. -/
theorem composeFrame_error {s : State} {code : Byte} {data : Bytes} {c : Cause}
    (h : composeFrame s code data = .error c) : (∃ w, c = .addressUnset w) ∨ c = .payloadTooLong data.length := by
  cases hs : (!s.srcSet || !s.dstSet) with
  | true =>
    obtain ⟨w, hw⟩ := composeFrame_unset hs code data
    rw [hw] at h; cases h; exact .inl ⟨w, rfl⟩
  | false =>
    rw [composeFrame_set (by simp_all) (by simp_all)] at h
    split at h
    · cases h; exact .inr rfl
    · cases h

/-! ## The source match -/

theorem discovers_iff (dst src : Addr) :
    discovers dst src = true ↔ dst = 0x2FFF#16 ∧ 0x2F01 ≤ src.toNat ∧ src.toNat ≤ 0x2FFE := by
  simp [discovers, Config.broadcast, Config.discoveryLow, Config.discoveryHigh, BitVec.lt_def, and_assoc]
  omega

/-- Everything `matchSource` can do. -/
theorem matchSource_cases (s : State) (src : Addr) :
    (s.dstSet = false ∧ matchSource s src = .error (.addressUnset .dst)) ∨
    (s.dstSet = true ∧ discovers s.dst src = true ∧ matchSource s src = .ok ({ s with dst := src }, true)) ∨
    (s.dstSet = true ∧ discovers s.dst src = false ∧ matchSource s src = .ok (s, src == s.dst)) := by
  rcases Bool.eq_false_or_eq_true s.dstSet with h | h
  · rcases Bool.eq_false_or_eq_true (discovers s.dst src) with hd | hd
    · exact .inr (.inl ⟨h, hd, by simp [matchSource, readDst_set h, hd]⟩)
    · exact .inr (.inr ⟨h, hd, by simp [matchSource, readDst_set h, hd]⟩)
  · exact .inl ⟨h, by simp [matchSource, readDst_unset h]⟩

/-! ## The response checks -/

theorem checkResponse_unset {s : State} (h : s.dstSet = false) (f : Frame) :
    checkResponse s f = .error (.addressUnset .dst) := by simp [checkResponse, readDst_unset h]

/-- With `DST` set, the checks pass exactly when all four hold. -/
theorem checkResponse_ok_iff {s : State} (h : s.dstSet = true) (f : Frame) :
    checkResponse s f = .ok () ↔
      f.header.length.toNat = 1 + f.body.data.length ∧
      crc24 (crcCoverage f.header.src f.header.dst f.header.length) = f.header.crc ∧
      checksum (payload f.body.code f.body.data) = f.body.checksum ∧
      (s.dst = Config.broadcast ∨ s.dst = f.header.src) := by
  simp only [checkResponse, readDst_set h]
  split_ifs <;> simp_all

/-- With `DST` set, no check raises `AddressUnset`. -/
theorem checkResponse_error_set {s : State} (h : s.dstSet = true) {f : Frame} {c : Cause}
    (hc : checkResponse s f = .error c) (w : UnsetRegister) : c ≠ .addressUnset w := by
  simp only [checkResponse, readDst_set h] at hc
  split_ifs at hc <;> cases hc <;> simp

theorem checkResponse_congr {s t : State} (h : readDst t = readDst s) (f : Frame) :
    checkResponse t f = checkResponse s f := by
  unfold checkResponse; rw [h]

/-- Everything `parseResponse` can do. -/
theorem parseResponse_cases (s : State) (f : Frame) :
    (∃ c, checkResponse s f = .error c ∧ parseResponse s f = .error c) ∨
    (checkResponse s f = .ok () ∧ parseResponse s f = .ok (acceptResponse s f)) := by
  unfold parseResponse
  cases h : checkResponse s f with
  | error c => exact .inl ⟨c, rfl, rfl⟩
  | ok u => exact .inr ⟨rfl, rfl⟩

/-- An accepted response has at most 254 data bytes. -/
theorem checkResponse_data_short {s : State} {f : Frame} (h : s.dstSet = true) (hc : checkResponse s f = .ok ()) :
    f.body.data.length ≤ 254 := by
  have := ((checkResponse_ok_iff h f).1 hc).1
  have := f.header.length.isLt
  omega

/-! ## The extractors -/

theorem extractHeader_error {h : Bytes} {c : Cause} (hc : extractHeader h = .error c) (w : UnsetRegister) :
    c ≠ .addressUnset w := by
  unfold extractHeader at hc
  split at hc
  · cases hc; simp
  · split at hc <;> cases hc; simp

theorem extractBody_error {length : Byte} {b : Bytes} {c : Cause} (hc : extractBody length b = .error c)
    (w : UnsetRegister) : c ≠ .addressUnset w := by
  unfold extractBody at hc
  split at hc
  · cases hc; simp
  · split at hc <;> cases hc; simp

/-! ## Reporting -/

@[simp] theorem raise_addressUnset (s : State) (w : UnsetRegister) :
    raise s (.addressUnset w) = .fault (.addressUnset w) := rfl

/-- Any cause but `AddressUnset` is the result of a next state. -/
theorem raise_next {c : Cause} (s : State) (h : ∀ w, c ≠ .addressUnset w) :
    raise s c = .next { s with result := some (.raise c) } := by
  cases c <;> first | rfl | exact absurd rfl (h _)

/-- A raise that answers a next state wrote only the result. -/
theorem raise_eq_next {s t : State} {c : Cause} (h : raise s c = .next t) :
    t = { s with result := some (.raise c) } := by
  cases c <;> first | (cases h; rfl) | cases h

@[simp] theorem report_ok (s : State) (o : Output) : report s (.ok o) = complete s o := rfl
@[simp] theorem report_error (s : State) (c : Cause) : report s (.error c) = raise s c := rfl
@[simp] theorem reportWrite_ok (s t : State) (o : Output) : reportWrite s (.ok (t, o)) = complete t o := rfl
@[simp] theorem reportWrite_error (s : State) (c : Cause) : reportWrite s (.error c) = raise s c := rfl

/-- A report that answers a next state wrote only the result. -/
theorem report_eq_next {s t : State} {r : Except Cause Output} (h : report s r = .next t) :
    t = { s with result := t.result } := by
  cases r with
  | ok o => cases h; rfl
  | error c => have := raise_eq_next h; rw [this]

end Sys2Proof.Machine
end

