-- ==== Sys2Proof/Laws/Encoding.lean ====
section
/-! SUPPORT. The byte orders, the header and the body read back what they wrote, both ways. -/

namespace Sys2Proof

/-! ## Byte order -/

theorem fromLe16_le16 (v : BitVec 16) : fromLe16 (v.extractLsb' 0 8) (v.extractLsb' 8 8) = v := by
  apply BitVec.eq_of_toNat_eq
  have := v.isLt
  simp [fromLe16, BitVec.extractLsb'_toNat, Nat.shiftRight_eq_div_pow]
  omega

theorem fromLe24_le24 (v : BitVec 24) : fromLe24 (v.extractLsb' 0 8) (v.extractLsb' 8 8) (v.extractLsb' 16 8) = v := by
  apply BitVec.eq_of_toNat_eq
  have := v.isLt
  simp [fromLe24, BitVec.extractLsb'_toNat, Nat.shiftRight_eq_div_pow]
  omega

theorem le16_fromLe16 (a b : Byte) : le16 (fromLe16 a b) = [a, b] := by
  have := a.isLt; have := b.isLt
  simp only [le16, fromLe16, List.cons.injEq, and_true]
  constructor <;> (apply BitVec.eq_of_toNat_eq; simp [BitVec.extractLsb'_toNat, Nat.shiftRight_eq_div_pow]; omega)

theorem le24_fromLe24 (a b c : Byte) : le24 (fromLe24 a b c) = [a, b, c] := by
  have := a.isLt; have := b.isLt; have := c.isLt
  simp only [le24, fromLe24, List.cons.injEq, and_true]
  refine ⟨?_, ?_, ?_⟩ <;> (apply BitVec.eq_of_toNat_eq; simp [BitVec.extractLsb'_toNat, Nat.shiftRight_eq_div_pow]; omega)

/-! ## Headers and bodies -/

theorem encodeHeader_length (h : Header) : (encodeHeader h).length = 8 := rfl

theorem decodeHeader_encodeHeader (h : Header) : decodeHeader (encodeHeader h) = some h := by
  obtain ⟨c, s, d, l⟩ := h
  simp [encodeHeader, crcCoverage, le24, le16, decodeHeader, fromLe16_le16, fromLe24_le24]

theorem encodeHeader_decodeHeader {b : Bytes} {h : Header} (hd : decodeHeader b = some h) : encodeHeader h = b := by
  unfold decodeHeader at hd
  split at hd
  · cases hd; simp [encodeHeader, crcCoverage, le24_fromLe24, le16_fromLe16]
  · cases hd

theorem decodeHeader_length {b : Bytes} {h : Header} (hd : decodeHeader b = some h) : b.length = 8 := by
  rw [← encodeHeader_decodeHeader hd]; rfl

theorem decodeBody_encodeBody (b : Body) : decodeBody (encodeBody b) = some b := by
  simp [encodeBody, decodeBody]

theorem encodeBody_decodeBody {s : Bytes} {b : Body} (hd : decodeBody s = some b) : encodeBody b = s := by
  unfold decodeBody at hd
  split at hd
  · cases hd
  · split at hd
    · cases hd
      rename_i hl
      simp only [encodeBody, List.cons_append]
      congr 1
      have := List.dropLast_append_getLast? _ hl
      exact this
    · cases hd

theorem lengthAgrees_iff (f : Frame) : f.lengthAgrees = true ↔ f.header.length.toNat = 1 + f.body.data.length := by
  simp [Frame.lengthAgrees]

namespace Machine

/-- A header read of an encoded header gives its fields. -/
theorem extractHeader_encodeHeader (h : Header) : extractHeader (encodeHeader h) = .ok h := by
  unfold extractHeader
  rw [if_neg (by simp [encodeHeader_length]), decodeHeader_encodeHeader]

/-- A body read of an encoded body gives its fields, when the length byte counts them. -/
theorem extractBody_encodeBody {f : Frame} (h : f.lengthAgrees = true) :
    extractBody f.header.length (encodeBody f.body) = .ok f.body := by
  have := (lengthAgrees_iff f).1 h
  unfold extractBody
  rw [if_neg (by simp [encodeBody]; omega), decodeBody_encodeBody]

end Machine

end Sys2Proof
end

