-- ==== Sys2Proof/Laws/Line.lean ====
section
/-! SUPPORT. What each Transport call does when its outcome is success and when it is failure, and the one entry it
writes into the history. -/

namespace Sys2Proof.Machine

variable {t : Transport}

/-! ## `afterFailure` keeps everything but the two flags -/

@[simp] theorem afterFailure_log (f : LineFailure) : (t.afterFailure f).log = t.log := by
  unfold Transport.afterFailure; split <;> rfl

@[simp] theorem afterFailure_calls (f : LineFailure) : (t.afterFailure f).calls = t.calls := by
  unfold Transport.afterFailure; split <;> rfl

@[simp] theorem afterFailure_reads (f : LineFailure) : (t.afterFailure f).reads = t.reads := by
  unfold Transport.afterFailure; split <;> rfl

@[simp] theorem afterFailure_incoming (f : LineFailure) : (t.afterFailure f).incoming = t.incoming := by
  unfold Transport.afterFailure; split <;> rfl

@[simp] theorem afterFailure_unwritten (f : LineFailure) : (t.afterFailure f).unwritten = t.unwritten := by
  unfold Transport.afterFailure; split <;> rfl

/-! ## Calls with an outcome -/

/-- With nothing scripted, or success scripted, a call succeeds, drops one outcome and is logged. -/
theorem Transport.call_done (c : TransportCall) (h : ∀ o ∈ t.calls.take 1, o = .done) :
    t.call c = ({ t with calls := t.calls.drop 1, log := t.log ++ [c] }, .ok ()) := by
  unfold Transport.call
  cases hc : t.calls with
  | nil => simp
  | cons o rest =>
    have : o = .done := h o (by simp [hc])
    subst this
    simp

theorem Transport.call_failed {f : LineFailure} {rest : List CallOutcome} (c : TransportCall)
    (h : t.calls = .failed f :: rest) :
    t.call c = (({ t with calls := rest, log := t.log ++ [c] }).afterFailure f, .error f) := by
  simp [Transport.call, h]

/-- A line that is open and configured is ready without a call. -/
theorem Transport.ensureReady_ready (h : t.isOpen = true) (h' : t.configured = true) :
    t.ensureReady = (t, .ok ()) := by
  simp [Transport.ensureReady, Transport.openLine, h, h']

/-- A flush that succeeds empties both buffers. -/
theorem Transport.flush_done (h : ∀ o ∈ t.calls.take 1, o = .done) :
    t.flush = ({ t with
      incoming := [], unwritten := [], calls := t.calls.drop 1, log := t.log ++ [.flush] }, .ok ()) := by
  unfold Transport.flush; rw [Transport.call_done _ h]

theorem Transport.write_done (b : Bytes) (h : ∀ o ∈ t.calls.take 1, o = .done) :
    t.write b = ({ t with calls := t.calls.drop 1, log := t.log ++ [.write b] }, .ok b.length) := by
  unfold Transport.write; rw [Transport.call_done _ h]

/-! ## Reads -/

theorem Transport.read_count {arrived : Bytes} {n : Nat} {rest : List ReadOutcome} (size : Nat)
    (h : t.reads = ⟨arrived, .count n⟩ :: rest) :
    t.read size = ({ t with
      incoming := (t.incoming ++ arrived).drop n, reads := rest, log := t.log ++ [.read size] },
      .ok ((t.incoming ++ arrived).take n)) := by
  simp [Transport.read, h]

theorem Transport.read_buffered (size : Nat) (h : t.reads = []) (hs : size ≤ t.incoming.length) :
    t.read size = ({ t with incoming := t.incoming.drop size, log := t.log ++ [.read size] },
      .ok (t.incoming.take size)) := by
  simp [Transport.read, h, hs]

/-! ## The history -/

theorem Transport.call_log (c : TransportCall) : (t.call c).1.log = t.log ++ [c] := by
  unfold Transport.call; split <;> simp

theorem Transport.flush_log : t.flush.1.log = t.log ++ [.flush] := by
  unfold Transport.flush
  have := t.call_log (c := .flush)
  split <;> simp_all

theorem Transport.write_log (b : Bytes) : (t.write b).1.log = t.log ++ [.write b] := by
  unfold Transport.write
  have := t.call_log (c := .write b)
  split <;> simp_all

theorem Transport.read_log (size : Nat) : (t.read size).1.log = t.log ++ [.read size] := by
  unfold Transport.read
  dsimp only
  split
  · split <;> rfl
  · rfl
  · simp

end Sys2Proof.Machine
end

