-- ==== Sys2Proof/Laws/PerInstr.lean ====
section
/-! SUPPORT. One lemma per instruction: what the encoder issues has the operand types of its row (spec/30_encoding.md
R60, spec/47_command_catalog.md R118). -/

namespace Sys2Proof.Laws.EncodesWellFormed

/-- The encoder's issue of `i` is well formed. -/
def Statement (i : Instr) : Prop := (encode i).wellFormed = true

theorem crc24 (s : Bytes) : Statement (.crc24 s) := rfl
theorem csum (s : Bytes) : Statement (.csum s) := rfl
theorem recon (base : BitVec 16) (inc : Byte) (check : Byte) : Statement (.recon base inc check) := rfl
theorem ldaddr (src : Addr) (dst : Addr) : Statement (.ldaddr src dst) := rfl
theorem rdaddr : Statement .rdaddr := rfl
theorem compose (code : Byte) (data : Bytes) : Statement (.compose code data) := rfl
theorem hdr (h : Bytes) : Statement (.hdr h) := rfl
theorem body (length : Byte) (b : Bytes) : Statement (.body length b) := rfl
theorem srcmatch (src : Addr) : Statement (.srcmatch src) := rfl
theorem parse (crc : Crc) (src : Addr) (dst : Addr) (length : Byte) (code : Byte) (data : Bytes) (checksum : Byte) : Statement (.parse crc src dst length code data checksum) := rfl
theorem rdresp : Statement .rdresp := rfl
theorem reserved0 : Statement .reserved0 := rfl
theorem reservedC : Statement .reservedC := rfl
theorem reservedD : Statement .reservedD := rfl
theorem reservedE : Statement .reservedE := rfl
theorem reservedF : Statement .reservedF := rfl
theorem getNetworkId : Statement .getNetworkId := rfl
theorem getConfig : Statement .getConfig := rfl
theorem setConfig (config : MeterConfig) : Statement (.setConfig config) := rfl
theorem getLastPacket (counterId : Addr) : Statement (.getLastPacket counterId) := rfl
theorem getHistory (counterId : Addr) : Statement (.getHistory counterId) := rfl

end Sys2Proof.Laws.EncodesWellFormed
end

