-- ==== Sys2Proof/Laws/Primitives.lean ====
section
/-! SUPPORT. The arithmetic of the pure computations: the byte sum, the CRC loop over a concatenation, the table entry
and the redundancy check. -/

namespace Sys2Proof.Machine

theorem byteSum_eq (s : Bytes) : byteSum s = (s.map (·.toNat)).sum := by
  induction s with
  | nil => rfl
  | cons b s ih => simp [byteSum, ih]

theorem crcFrom_append (c : Nat) (s t : Bytes) : crcFrom c (s ++ t) = crcFrom (crcFrom c s) t := by
  induction s generalizing c with
  | nil => rfl
  | cons b s ih => simp [crcFrom, ih]

theorem romRead_toNat (t : Vector Byte 256) (i : Byte) : (romRead t i).toNat = (t[i.toFin]).toNat * 256 + i.toNat := by
  unfold romRead
  have h1 := (t[i.toFin]).isLt
  have h2 := i.isLt
  rw [BitVec.toNat_ofNat, Nat.mod_eq_of_lt]; omega

/-- The redundancy check is a comparison with the table's high byte. -/
theorem reconstruct_eq (t : Vector Byte 256) (base) (inc check : Byte) : reconstruct t base inc check =
    if check = t[inc.toFin] then some (BitVec.ofNat 32 (base.toNat + inc.toNat)) else none := by
  unfold reconstruct
  have h : romRead t inc = BitVec.ofNat 16 (check.toNat * 256 + inc.toNat) ↔ check = t[inc.toFin] := by
    constructor
    · intro h
      have := congrArg BitVec.toNat h
      rw [romRead_toNat, BitVec.toNat_ofNat] at this
      have h1 := (t[inc.toFin]).isLt
      have h2 := inc.isLt
      have h3 := check.isLt
      apply BitVec.eq_of_toNat_eq; omega
    · intro h; rw [h]; unfold romRead; rfl
  simp only [h]
  have hv : base.setWidth 32 + inc.setWidth 32 = BitVec.ofNat 32 (base.toNat + inc.toNat) := by
    apply BitVec.eq_of_toNat_eq
    have := base.isLt; have := inc.isLt
    simp
  rw [hv]

end Sys2Proof.Machine
end

