-- ==== Sys2Proof/Laws/Session.lean ====
section
/-! SUPPORT. What the host's actions can do, said once: sequencing, and the principle by which a
property of the state is carried through a whole exchange. -/

namespace Sys2Proof.Machine

/-! ## Sequencing -/

@[simp] theorem andThen_ok {α β : Type} (s : State) (a : α) (next : α → State → State × Except Cause β) :
    andThen (s, .ok a) next = next a s := rfl

@[simp] theorem andThen_error {α β : Type} (s : State) (c : Cause) (next : α → State → State × Except Cause β) :
    andThen (s, .error c) next = (s, .error c) := rfl

/-- An action keeps `P` of the state, whatever its result, and meets `Q` on its errors. -/
def Keeps {α : Type} (P : State → Prop) (Q : Cause → Prop) (r : State × Except Cause α) : Prop :=
  P r.1 ∧ ∀ c, r.2 = .error c → Q c

theorem Keeps_ok {α : Type} {P : State → Prop} {Q : Cause → Prop} {s : State} (h : P s) (a : α) :
    Keeps P Q (s, Except.ok a) := ⟨h, by simp⟩

theorem Keeps_error {α : Type} {P : State → Prop} {Q : Cause → Prop} {s : State} {c : Cause} (h : P s) (hc : Q c) :
    Keeps P Q (s, (.error c : Except Cause α)) := ⟨h, by rintro _ ⟨⟩; exact hc⟩

/-- Sequencing keeps what both parts keep. -/
theorem Keeps_andThen {α β : Type} {P : State → Prop} {Q : Cause → Prop} {r : State × Except Cause α}
    {next : α → State → State × Except Cause β} (h : Keeps P Q r) (h' : ∀ a s, P s → Keeps P Q (next a s)) :
    Keeps P Q (andThen r next) := by
  obtain ⟨s, r⟩ := r
  cases r with
  | ok a => exact h' a s h.1
  | error c => exact ⟨h.1, fun c' hc => h.2 c' (by simpa using hc)⟩

/-! ## Transport calls -/

@[simp] theorem onTransport_state {α : Type} (f : Transport → Transport × Except TransportError α) (s : State) :
    (onTransport f s).1 = { s with transport := (f s.transport).1 } := rfl

theorem onTransport_ok {α : Type} {f : Transport → Transport × Except TransportError α} {s : State} {t : Transport}
    {a : α} (h : f s.transport = (t, .ok a)) : onTransport f s = ({ s with transport := t }, .ok a) := by
  simp [onTransport, h]

theorem onTransport_error {α : Type} {f : Transport → Transport × Except TransportError α} {s : State} {t : Transport}
    {e : TransportError} (h : f s.transport = (t, .error e)) :
    onTransport f s = ({ s with transport := t }, .error (.transportFault e)) := by
  simp [onTransport, h]

/-- A Transport call raises nothing but `TransportFault`. -/
theorem onTransport_fails {α : Type} {f : Transport → Transport × Except TransportError α} {s : State} {c : Cause}
    (h : (onTransport f s).2 = .error c) : ∃ e, c = .transportFault e := by
  unfold onTransport at h
  split at h
  · cases h
  · cases h; exact ⟨_, rfl⟩

/-! ## Carrying a property through an exchange -/

/-- What a property must keep to be carried through an exchange once the addresses are loaded: any Transport call, an
adopted source, an accepted response, a stored session. -/
structure Carried (P : State → Prop) : Prop where
  transport : ∀ s t, P s → P { s with transport := t }
  adopt     : ∀ s src, P s → P { s with dst := src }
  accept    : ∀ s f, P s → s.dstSet = true → checkResponse s f = .ok () → P (acceptResponse s f)
  session   : ∀ s src dst, P s → P { s with sessSrc := src, sessDst := dst }
  addressed : ∀ s, P s → s.srcSet = true ∧ s.dstSet = true

variable {P : State → Prop}

/-- The errors an exchange can end with are all operational: none is `AddressUnset`. -/
def Operational (c : Cause) : Prop := ∀ w, c ≠ .addressUnset w

theorem Keeps_onTransport {α : Type} (hP : Carried P) (f : Transport → Transport × Except TransportError α) {s : State}
    (h : P s) : Keeps P Operational (onTransport f s) :=
  ⟨hP.transport s _ h, fun c hc => by obtain ⟨e, rfl⟩ := onTransport_fails hc; intro w; simp⟩

theorem Keeps_onBlock {α : Type} {r : Except Cause α} {s : State} (h : P s)
    (hr : ∀ c, r = .error c → Operational c) : Keeps P Operational (onBlock r s) := ⟨h, fun c hc => hr c hc⟩

theorem Keeps_hostMatch (hP : Carried P) (src : Addr) {s : State} (h : P s) :
    Keeps P Operational (hostMatch src s) := by
  have hd := (hP.addressed s h).2
  unfold hostMatch
  obtain ⟨h1, -⟩ | ⟨-, -, h1⟩ | ⟨-, -, h1⟩ := matchSource_cases s src
  · simp [hd] at h1
  · rw [h1]; exact Keeps_ok (hP.adopt s src h) _
  · rw [h1]; exact Keeps_ok h _

theorem Keeps_hostParse (hP : Carried P) (f : Frame) {s : State} (h : P s) :
    Keeps P Operational (hostParse f s) := by
  have hd := (hP.addressed s h).2
  unfold hostParse
  obtain ⟨c, hc, h1⟩ | ⟨hc, h1⟩ := parseResponse_cases s f
  · rw [h1]; exact Keeps_error h fun w => checkResponse_error_set hd hc w
  · rw [h1]; exact Keeps_ok (hP.accept s f h hd hc) _

theorem Keeps_hostStoreSession (hP : Carried P) {s : State} (h : P s) :
    Keeps P Operational (hostStoreSession s) := by
  obtain ⟨h1, h2⟩ := hP.addressed s h
  simp only [hostStoreSession, readAddresses_set h1 h2]
  exact Keeps_ok (hP.session s _ _ h) _

theorem decodePayload_error {s : State} {k : CommandKind} {d : Bytes} {c : Cause}
    (h : decodePayload s k d = .error c) : Operational c := by
  intro w
  cases k <;> simp only [decodePayload] at h
  · unfold decodeNetworkId at h; split at h <;> cases h; simp
  · unfold decodeConfig at h; split at h <;> cases h; simp
  · unfold decodeConfig at h; split at h <;> cases h; simp
  · unfold decodeLastPacket at h; split at h <;> cases h; simp
  · unfold decodeHistory at h
    split at h
    · cases h
    · cases h; simp
    · split_ifs at h <;> cases h <;> simp

theorem decodeResponse_error {s : State} {k : CommandKind} {c : Cause} (h : decodeResponse s k = .error c) :
    Operational c := by
  unfold decodeResponse at h
  split at h
  · split at h
    · exact decodePayload_error h
    · cases h; intro w; simp
  · cases h; intro w; simp

theorem Keeps_receiveLoop (hP : Carried P) (k : CommandKind) (n : Nat) {s : State} (h : P s) :
    Keeps P Operational (receiveLoop k n s) := by
  induction n generalizing s with
  | zero => exact Keeps_error h fun w => by simp
  | succ n ih =>
    refine Keeps_andThen (Keeps_onTransport hP _ h) fun b s h => ?_
    refine Keeps_andThen (Keeps_onBlock h fun c hc w => extractHeader_error hc w) fun header s h => ?_
    refine Keeps_andThen (Keeps_onTransport hP _ h) fun b s h => ?_
    refine Keeps_andThen (Keeps_onBlock h fun c hc w => extractBody_error hc w) fun body s h => ?_
    refine Keeps_andThen (Keeps_hostMatch hP _ h) fun verdict s h => ?_
    split
    · refine Keeps_andThen (Keeps_hostParse hP _ h) fun _ s h => ?_
      refine Keeps_andThen (Keeps_hostStoreSession hP h) fun _ s h => ?_
      exact Keeps_onBlock h fun c hc => decodeResponse_error hc
    · exact ih h

theorem encodeRequest_short (table : Vector Mode 4) (k : CommandKind) : (encodeRequest table k).2.length ≤ 3 := by
  cases k <;> simp [encodeRequest, le16]

theorem Keeps_sendRequest (hP : Carried P) (k : CommandKind) {s : State} (h : P s) :
    Keeps P Operational (sendRequest k s) := by
  refine Keeps_andThen (Keeps_onTransport hP _ h) fun _ s h => ?_
  refine Keeps_andThen (Keeps_onTransport hP _ h) fun _ s h => ?_
  refine Keeps_andThen (Keeps_onBlock h fun c hc w => ?_) fun frame s h => ?_
  · have hs := encodeRequest_short s.modeTable k
    obtain ⟨h1, h2⟩ := hP.addressed s h
    rw [composeFrame_set h1 h2, if_neg (by omega)] at hc
    cases hc
  · refine Keeps_andThen (Keeps_onTransport hP _ h) fun _ s h => ?_
    exact Keeps_ok h ()

/-- A carried property that holds after the addresses are loaded holds after the exchange, and the exchange ends with
no `AddressUnset`. -/
theorem Keeps_exchange (hP : Carried P) (k : CommandKind) {s : State}
    (h : P (loadAddresses s s.sessSrc s.sessDst)) : Keeps P Operational (exchange k s) :=
  Keeps_andThen (Keeps_sendRequest hP k h) fun _ _ h => Keeps_receiveLoop hP k _ h

/-- Reporting what an exchange kept: a next state that differs from the exchange's in the result only. -/
theorem reportExchange_next {Q : State → Prop} {r : State × Except Cause Decoded} (h : Keeps Q Operational r) :
    ∃ t, reportExchange r = .next { r.1 with result := some t } ∧ Q r.1 := by
  obtain ⟨s, r⟩ := r
  cases r with
  | ok d => exact ⟨.ok (.decoded d), rfl, h.1⟩
  | error c =>
    refine ⟨.raise c, ?_, h.1⟩
    exact raise_next s (h.2 c rfl)

end Sys2Proof.Machine
end

