-- ==== Sys2Proof/Laws/Steps.lean ====
section
/-! SUPPORT. What an instruction that answers a next state has done: inversion lemmas for the instructions that write
registers, and for a step. -/

namespace Sys2Proof.Machine

theorem srcmatch_next {src : Addr} {s t : State} (h : exec (.srcmatch src) s = .next t) :
    (s.dstSet = true ∧ discovers s.dst src = true ∧ t = { s with dst := src, result := some (.ok (.matched true)) }) ∨
    (s.dstSet = true ∧ discovers s.dst src = false ∧ t = { s with result := some (.ok (.matched (src == s.dst))) }) := by
  obtain ⟨h', h1⟩ | ⟨h', hd, h1⟩ | ⟨h', hd, h1⟩ := matchSource_cases s src <;> simp [exec, execSrcmatch, h1, complete] at h
  · exact .inl ⟨h', hd, h.symm⟩
  · exact .inr ⟨h', hd, h.symm⟩

theorem parse_next {crc : Crc} {src dst : Addr} {l code : Byte} {data : Bytes} {sum : Byte} {s t : State}
    (h : exec (.parse crc src dst l code data sum) s = .next t) :
    s.dstSet = true ∧ ((checkResponse s ⟨⟨crc, src, dst, l⟩, ⟨code, data, sum⟩⟩ = .ok () ∧
      t = { acceptResponse s ⟨⟨crc, src, dst, l⟩, ⟨code, data, sum⟩⟩ with result := some (.ok .unit) }) ∨
    ∃ c, checkResponse s ⟨⟨crc, src, dst, l⟩, ⟨code, data, sum⟩⟩ = .error c ∧ t = { s with result := some (.raise c) }) := by
  rcases Bool.eq_false_or_eq_true s.dstSet with hd | hd
  · refine ⟨hd, ?_⟩
    simp only [exec, execParse] at h
    obtain ⟨c, hc, h1⟩ | ⟨hc, h1⟩ := parseResponse_cases s ⟨⟨crc, src, dst, l⟩, ⟨code, data, sum⟩⟩ <;> rw [h1] at h
    · exact .inr ⟨c, hc, raise_eq_next h⟩
    · cases h; exact .inl ⟨hc, rfl⟩
  · simp [exec, execParse, parseResponse, checkResponse_unset hd] at h

/-- A block operation other than LDADDR, SRCMATCH and PARSE writes the result alone. -/
theorem readOnly_next {i : Instr} {s t : State} (hb : isBlockOperation i = true)
    (h1 : ∀ src dst, i ≠ .ldaddr src dst) (h2 : ∀ src, i ≠ .srcmatch src)
    (h3 : ∀ crc src dst length code data sum, i ≠ .parse crc src dst length code data sum)
    (h : exec i s = .next t) : t = { s with result := t.result } := by
  cases i
  case rdaddr => exact report_eq_next h
  case compose => exact report_eq_next h
  case hdr => exact report_eq_next h
  case body => exact report_eq_next h
  case ldaddr => exact absurd rfl (h1 _ _)
  case srcmatch => exact absurd rfl (h2 _)
  case parse => exact absurd rfl (h3 _ _ _ _ _ _ _)
  all_goals first | (cases h; rfl) | cases hb

/-- A step that answers a next state held an idle machine, or ran the oldest issue's instruction. -/
theorem step_next {s t : State} (h : step s = .next t) :
    (s.pending = [] ∧ t = s) ∨ ∃ issue rest i,
      s.pending = issue :: rest ∧ decode issue = .ok i ∧ exec i { s with pending := rest } = .next t := by
  unfold step at h
  cases hp : s.pending with
  | nil => rw [takeIssue_nil s hp] at h; cases h; exact .inl ⟨rfl, rfl⟩
  | cons issue rest =>
    rw [takeIssue_cons s hp] at h
    simp only at h
    split at h
    · exact .inr ⟨issue, rest, _, rfl, ‹_›, h⟩
    · cases h

end Sys2Proof.Machine
end

