-- ==== Sys2Proof/Tests/Slice0.lean ====
section
/-! SUPPORT. Tests. Expected values are those of spec/95_test_vectors.md (a row's id stands beside its test) or of the
rule named; a state is built by `block` or `host`. At the end, for every statement with hypotheses, a theorem
`witness_<Name>` with concrete values that meet them, one for each of its clauses. -/

open Sys2Proof Sys2Proof.Machine Sys2Proof.Claim
open Host (Outcome)

namespace Sys2Proof.Tests

/-! ## Helpers -/

/-- The illustrative table of 95_test_vectors.md 2.3: `t(2) = 55`, `t(3) = 66`, `t(4) = 0`, `t(5) = AB`; here `t(FF) = 9C`. -/
def table : Vector Byte 256 :=
  Vector.ofFn fun i => if i = 2 then 0x55 else if i = 3 then 0x66 else if i = 5 then 0xAB else if i = 255 then 0x9C else 0

/-- A block with both addresses set, no response, and a closed line. -/
def block (src dst : Addr) : State :=
  { src := src, srcSet := true, dst := dst, dstSet := true, respCode := none, respData := none, rtableHi := table
    modeTable := Config.modeTableDefault, setConfigAck := 0x80, sessSrc := 0x0001, sessDst := dst
    transport := Transport.reset, pending := [], result := none }

/-- A block with neither address set. -/
def unset : State := { block 0 0 with srcSet := false, dstSet := false }

/-- A host on an open line that holds two stale bytes, with these reads to come. -/
def host (dst : Addr) (reads : List ReadOutcome) : State :=
  { block 0x0001 dst with
    transport :=
      { isOpen := true, configured := true, incoming := [0xAA, 0xBB], unwritten := [], calls := [], reads := reads
        log := [] } }

/-- The reads by which frames come in: 8 bytes, then the rest. -/
def frameReads : List Frame → List ReadOutcome
  | [] => []
  | f :: rest =>
    ⟨encodeHeader f.header, .count 8⟩ :: ⟨encodeBody f.body, .count (f.header.length.toNat + 1)⟩ :: frameReads rest

/-- A connection fault that closes the line. -/
def cut : LineFailure := ⟨.connectionFault, true, 0⟩

/-- A timeout that leaves the line open, after 3 bytes of a write. -/
def slow : LineFailure := ⟨.timeout, false, 3⟩

def resultOf : Outcome State Fault Refusal → Option Result
  | .next t => t.result
  | _ => none

/-- `SRC`, `DST`, `RESP_CODE`, `RESP_DATA` of a next state with both flags set. -/
structure Regs where
  src  : Addr
  dst  : Addr
  code : Option Byte
  data : Option Bytes
deriving DecidableEq, Repr

def registersOf : Outcome State Fault Refusal → Option Regs
  | .next t => if t.srcSet && t.dstSet then some ⟨t.src, t.dst, t.respCode, t.respData⟩ else none
  | _ => none

def sessionOf : Outcome State Fault Refusal → Option (Addr × Addr)
  | .next t => some (t.sessSrc, t.sessDst)
  | _ => none

def faultOf : Outcome State Fault Refusal → Option Fault
  | .fault f => some f
  | _ => none

def refusalOf : Outcome State Fault Refusal → Option Refusal
  | .refused r => some r
  | _ => none

def output (o : Output) : Option Result := some (.ok o)
def raised (c : Cause) : Option Result := some (.raise c)

def ok {ε α : Type} : Except ε α → Option α
  | .ok a => some a
  | .error _ => none

/-- The frame of V-PRS-1, from `0x2F10`. -/
def expected : Frame := ⟨⟨0x6BC941, 0x2F10, 0x0001, 3⟩, ⟨0x86, [0x10, 0x2F], 0xC4⟩⟩

/-- The foreign frame of P5, from `0x2F11`. -/
def foreign : Frame := ⟨⟨0xB237CD, 0x2F11, 0x0001, 3⟩, ⟨0x86, [0x11, 0x2F], 0xC5⟩⟩

/-- The frame of P3 steps 6 to 9: V-PRS-1 with its first byte corrupted. -/
def corrupted : Frame := ⟨⟨0x6BC940, 0x2F10, 0x0001, 3⟩, ⟨0x86, [0x10, 0x2F], 0xC4⟩⟩

/-! ## Ill-formed issues, each refused (R60, R61, R118) -/

theorem test_illformed_missing_operand :
    (Issue.op 0x1 []).wellFormed = false ∧ ok (decode (.op 0x1 [])) = none := by decide

theorem test_illformed_wrong_operand_type :
    (Issue.op 0x9 [.u8 0x10]).wellFormed = false ∧ ok (decode (.op 0x9 [.u8 0x10])) = none := by decide

theorem test_illformed_extra_operand :
    (Issue.op 0x5 [.u8 0]).wellFormed = false ∧ ok (decode (.op 0x5 [.u8 0])) = none := by decide

theorem test_illformed_operand_order :
    (Issue.op 0x6 [.bytes [], .u8 0x86]).wellFormed = false ∧ ok (decode (.op 0x6 [.bytes [], .u8 0x86])) = none := by
  decide

theorem test_illformed_call_arguments :
    (Issue.call 0x82 []).wellFormed = false ∧ ok (decode (.call 0x82 [])) = none := by decide

theorem test_illformed_unknown_command :
    (Issue.call 0x81 []).wellFormed = false ∧ ok (decode (.call 0x81 [])) = none := by decide

theorem test_illformed_issue_is_refused_by_name :
    refusalOf (step (issueFirst unset (.op 0x1 []))) = some (.malformedOperation 0x1) ∧
    refusalOf (step (issueFirst unset (.call 0x82 []))) = some (.malformedCall 0x82) ∧
    refusalOf (step (issueFirst unset (.call 0x81 []))) = some (.unknownCommand 0x81) := by decide

/-! ## Words written out from the selector map (R60) and the command codes (R58) -/

theorem test_decode_checksum_words :
    ok (decode (.op 0b0001 [.bytes [0x31]])) = some (.crc24 [0x31]) ∧ decodeTableWord 4 0b0001 = some (.crc24 []) ∧
    ok (decode (.op 0b0010 [.bytes [0x82, 5, 0]])) = some (.csum [0x82, 5, 0]) ∧
    decodeTableWord 8 0b0010 = some (.csum []) := by decide

theorem test_decode_recon_word :
    ok (decode (.op 0b0011 [.u16 0x1200, .u8 5, .u8 0xAB])) = some (.recon 0x1200 5 0xAB) ∧
    decodeTableWord 8 0b0011 = some (.recon 0 0 0) := by decide

theorem test_decode_composer_words :
    ok (decode (.op 0b0100 [.u16 1, .u16 0x2FFF])) = some (.ldaddr 1 0x2FFF) ∧
    ok (decode (.op 0b0101 [])) = some .rdaddr ∧
    ok (decode (.op 0b0110 [.u8 0x82, .bytes [0x10, 0]])) = some (.compose 0x82 [0x10, 0]) ∧
    decodeTableWord 8 0b0100 = some (.ldaddr 0 0) ∧ decodeTableWord 8 0b0101 = some .rdaddr ∧
    decodeTableWord 8 0b0110 = some (.compose 0 []) := by decide

theorem test_decode_parser_words :
    ok (decode (.op 0b0111 [.bytes [1]])) = some (.hdr [1]) ∧
    ok (decode (.op 0b1000 [.u8 1, .bytes [0x86, 0x85]])) = some (.body 1 [0x86, 0x85]) ∧
    ok (decode (.op 0b1001 [.u16 0x2F10])) = some (.srcmatch 0x2F10) ∧
    ok (decode (.op 0b1010 [.u24 1, .u16 2, .u16 3, .u8 4, .u8 5, .bytes [6], .u8 7])) = some (.parse 1 2 3 4 5 [6] 7) ∧
    ok (decode (.op 0b1011 [])) = some .rdresp ∧
    decodeTableWord 8 0b0111 = some (.hdr []) ∧ decodeTableWord 8 0b1000 = some (.body 0 []) ∧
    decodeTableWord 8 0b1001 = some (.srcmatch 0) ∧ decodeTableWord 8 0b1010 = some (.parse 0 0 0 0 0 [] 0) ∧
    decodeTableWord 8 0b1011 = some .rdresp := by decide

theorem test_decode_reserved_words :
    ok (decode (.op 0b0000 [])) = some .reserved0 ∧ ok (decode (.op 0b1100 [])) = some .reservedC ∧
    ok (decode (.op 0b1101 [])) = some .reservedD ∧ ok (decode (.op 0b1110 [])) = some .reservedE ∧
    ok (decode (.op 0b1111 [])) = some .reservedF ∧ decodeTableWord 4 0b0000 = some .reserved0 ∧
    decodeTableWord 8 0b1100 = some .reservedC ∧ decodeTableWord 8 0b1101 = some .reservedD ∧
    decodeTableWord 8 0b1110 = some .reservedE ∧ decodeTableWord 8 0b1111 = some .reservedF := by decide

theorem test_decode_command_words :
    ok (decode (.call 0b10000110 [])) = some .getNetworkId ∧ ok (decode (.call 0b10000000 [])) = some .getConfig ∧
    ok (decode (.call 0b00000000 [.config ⟨0x10, true, false, .slaveSR, true, false⟩])) =
      some (.setConfig ⟨0x10, true, false, .slaveSR, true, false⟩) ∧
    ok (decode (.call 0b10000010 [.u16 0x10])) = some (.getLastPacket 0x10) ∧
    ok (decode (.call 0b10000101 [.u16 0x10])) = some (.getHistory 0x10) ∧
    decodeTableWord 8 0b10000110 = some .getNetworkId ∧ decodeTableWord 8 0b10000000 = some .getConfig ∧
    decodeTableWord 8 0b00000000 = some (.setConfig ⟨0, false, false, .normal, false, false⟩) ∧
    decodeTableWord 8 0b10000010 = some (.getLastPacket 0) ∧ decodeTableWord 8 0b10000101 = some (.getHistory 0) := by
  decide

/-- V-PRS-1's frame, byte by byte. -/
theorem test_decode_frame :
    decodeFrame [0x41, 0xC9, 0x6B, 0x10, 0x2F, 0x01, 0x00, 0x03, 0x86, 0x10, 0x2F, 0xC4] = some expected := by decide

/-- R15, R60. -/
theorem test_assembly :
    assembly (.ldaddr 0x0001 0x2FFF) = some "LDADDR 0x0001, 0x2FFF".toList ∧
    assembly (.compose 0x82 [0x10, 0x00]) = some "COMPOSE 0x82, [10 00]".toList ∧
    assembly .rdresp = some "RDRESP".toList := by decide +kernel

/-! ## One step of each instruction -/

/-- V-CRC-2, 3, 5, 7, 11. -/
theorem test_crc24_vectors :
    resultOf (exec (.crc24 [0x00]) unset) = output (.crc24 0x6169D3 [0xD3, 0x69, 0x61]) ∧
    resultOf (exec (.crc24 [0xFF]) unset) = output (.crc24 0xBCECEB [0xEB, 0xEC, 0xBC]) ∧
    crc24 [0x31, 0x32, 0x33, 0x34, 0x35, 0x36, 0x37, 0x38, 0x39] = 0x21CF02 ∧
    crc24 [0xFF, 0xFF, 0xFF, 0xFF, 0xFF] = 0x4E1D11 ∧ crc24 [0x01, 0x00, 0x10, 0x2F, 0x03] = 0x8B4DA4 := by
  decide +kernel

/-- V-CSUM-1 to V-CSUM-5, 9. -/
theorem test_csum_vectors :
    resultOf (exec (.csum []) unset) = output (.csum 0xFF) ∧ resultOf (exec (.csum [0x00]) unset) = output (.csum 0xFF) ∧
    resultOf (exec (.csum [0x01]) unset) = output (.csum 0x00) ∧
    resultOf (exec (.csum [0xFF]) unset) = output (.csum 0xFE) ∧
    resultOf (exec (.csum [0xFF, 0x01]) unset) = output (.csum 0xFF) ∧
    resultOf (exec (.csum [0x86, 0x10, 0x2F]) unset) = output (.csum 0xC4) := by decide

/-- V-REC-1 to V-REC-5. -/
theorem test_recon_vectors :
    resultOf (exec (.recon 0x1200 0x05 0xAB) unset) = output (.recon (some 0x1205)) ∧
    resultOf (exec (.recon 0x1200 0x05 0xAA) unset) = output (.recon none) ∧
    resultOf (exec (.recon 0x12FF 0x02 0x55) unset) = output (.recon (some 0x1301)) ∧
    resultOf (exec (.recon 0xFFFF 0xFF 0x9C) unset) = output (.recon (some 0x100FE)) ∧
    resultOf (exec (.recon 0x0000 0x00 0x00) unset) = output (.recon (some 0)) := by decide +kernel

/-- V-ADR-2, V-ADR-5. -/
theorem test_ldaddr_clears_response :
    registersOf (exec (.ldaddr 0x0001 0x2FFF) { unset with respCode := some 0x86, respData := some [0x10, 0x2F] }) =
      some ⟨0x0001, 0x2FFF, none, none⟩ := by decide

/-- V-ADR-1, V-ADR-3. -/
theorem test_rdaddr :
    resultOf (exec .rdaddr (block 0x0001 0x2FFF)) = output (.addresses 0x0001 0x2FFF) ∧
    faultOf (exec .rdaddr unset) = some (.addressUnset .both) := by decide

/-- V-CMP-1, 4, 6. -/
theorem test_compose_frames :
    resultOf (exec (.compose 0x86 []) (block 0x0001 0x2FFF)) =
      output (.frame [0xCA, 0x40, 0x7E, 0x01, 0x00, 0xFF, 0x2F, 0x01, 0x86, 0x85]) ∧
    resultOf (exec (.compose 0x82 [0x10, 0x00]) (block 0x0001 0x2F10)) =
      output (.frame [0xA4, 0x4D, 0x8B, 0x01, 0x00, 0x10, 0x2F, 0x03, 0x82, 0x10, 0x00, 0x91]) ∧
    resultOf (exec (.compose 0x00 [0x10, 0x00, 0x20]) (block 0x0001 0x2F10)) =
      output (.frame [0xB3, 0x32, 0x14, 0x01, 0x00, 0x10, 0x2F, 0x04, 0x00, 0x10, 0x00, 0x20, 0x2F]) := by
  decide +kernel

/-- V-CMP-7, 8, 10. -/
theorem test_compose_limit :
    resultOf (exec (.compose 0x00 (List.replicate 254 0)) (block 0x0001 0x2F10)) =
      output (.frame ([0x6A, 0x51, 0x5A, 0x01, 0x00, 0x10, 0x2F, 0xFF, 0x00] ++ List.replicate 254 0 ++ [0xFF])) ∧
    resultOf (exec (.compose 0x00 (List.replicate 255 0)) (block 0x0001 0x2F10)) = raised (.payloadTooLong 255) ∧
    faultOf (exec (.compose 0x00 (List.replicate 255 0)) unset) = some (.addressUnset .both) := by decide +kernel

/-- V-HDR-1 to V-HDR-4, 6. -/
theorem test_hdr :
    resultOf (exec (.hdr [0x41, 0xC9, 0x6B, 0x10, 0x2F, 0x01, 0x00, 0x03]) unset) =
      output (.header ⟨0x6BC941, 0x2F10, 0x0001, 3⟩) ∧
    resultOf (exec (.hdr []) unset) = raised .noResponse ∧
    resultOf (exec (.hdr [0x41, 0xC9, 0x6B, 0x10, 0x2F, 0x01, 0x00]) unset) = raised (.framingError (.exactly 8) 7) ∧
    resultOf (exec (.hdr [0x41, 0xC9, 0x6B, 0x10, 0x2F, 0x01, 0x00, 3, 0x86]) unset) =
      raised (.framingError (.exactly 8) 9) := by decide

/-- V-BODY-1 to V-BODY-4, 6, 7. -/
theorem test_body :
    resultOf (exec (.body 3 [0x86, 0x10, 0x2F, 0xC4]) unset) = output (.body ⟨0x86, [0x10, 0x2F], 0xC4⟩) ∧
    resultOf (exec (.body 1 [0x86, 0x85]) unset) = output (.body ⟨0x86, [], 0x85⟩) ∧
    resultOf (exec (.body 3 [0x86, 0x10, 0x2F]) unset) = raised (.framingError (.exactly 4) 3) ∧
    resultOf (exec (.body 3 []) unset) = raised (.framingError (.exactly 4) 0) ∧
    resultOf (exec (.body 0 []) unset) = raised (.framingError (.exactly 1) 0) ∧
    resultOf (exec (.body 0 [0x86]) unset) = raised (.framingError (.exactly 1) 0) := by decide

/-- V-SRC-1, 5, 6: discovery. -/
theorem test_srcmatch_discovers :
    registersOf (exec (.srcmatch 0x2F10) (block 1 0x2FFF)) = some ⟨1, 0x2F10, none, none⟩ ∧
    registersOf (exec (.srcmatch 0x2F01) (block 1 0x2FFF)) = some ⟨1, 0x2F01, none, none⟩ ∧
    registersOf (exec (.srcmatch 0x2FFE) (block 1 0x2FFF)) = some ⟨1, 0x2FFE, none, none⟩ := by decide

/-- V-SRC-2, 3, 4, 7, 8, 11: no discovery. -/
theorem test_srcmatch_compares :
    exec (.srcmatch 0x3000) (block 1 0x2FFF) = .next { block 1 0x2FFF with result := output (.matched false) } ∧
    exec (.srcmatch 0x2F00) (block 1 0x2FFF) = .next { block 1 0x2FFF with result := output (.matched false) } ∧
    exec (.srcmatch 0x2FFF) (block 1 0x2FFF) = .next { block 1 0x2FFF with result := output (.matched true) } ∧
    resultOf (exec (.srcmatch 0x2F10) (block 1 0x2F10)) = output (.matched true) ∧
    resultOf (exec (.srcmatch 0x2F11) (block 1 0x2F10)) = output (.matched false) ∧
    faultOf (exec (.srcmatch 0x2F10) unset) = some (.addressUnset .dst) := ⟨rfl, rfl, rfl, by decide, by decide, by decide⟩

/-- V-PRS-1, 8, 9, 11, 12: accepted. -/
theorem test_parse_accepts :
    registersOf (exec (.parse 0x6BC941 0x2F10 0x0001 3 0x86 [0x10, 0x2F] 0xC4) (block 1 0x2F10)) =
      some ⟨0x0001, 0x2F10, some 0x86, some [0x10, 0x2F]⟩ ∧
    registersOf (exec (.parse 0x983EA1 0x3000 0x0001 3 0x86 [0x00, 0x30] 0xB5) (block 1 0x2FFF)) =
      some ⟨0x0001, 0x3000, some 0x86, some [0x00, 0x30]⟩ ∧
    registersOf (exec (.parse 0x689FC3 0x2F10 0x0002 3 0x86 [0x10, 0x2F] 0xC4) (block 1 0x2F10)) =
      some ⟨0x0002, 0x2F10, some 0x86, some [0x10, 0x2F]⟩ ∧
    registersOf (exec (.parse 0xE11C4C 0x2F10 0x0001 1 0x82 [] 0x81) (block 1 0x2F10)) =
      some ⟨0x0001, 0x2F10, some 0x82, some []⟩ ∧
    registersOf (exec (.parse 0x1AF9CD 0x2FFF 0x0001 3 0x86 [0xFF, 0x2F] 0xB3) (block 1 0x2FFF)) =
      some ⟨0x0001, 0x2FFF, some 0x86, some [0xFF, 0x2F]⟩ := by decide +kernel

/-- V-PRS-2 to V-PRS-5, 7, 10: refused in order. -/
theorem test_parse_raises :
    resultOf (exec (.parse 0x6BC940 0x2F10 0x0001 3 0x86 [0x10, 0x2F] 0xC4) (block 1 0x2F10)) =
      raised (.crcMismatch 0x6BC941 0x6BC940) ∧
    resultOf (exec (.parse 0x6BC941 0x2F10 0x0001 3 0x86 [0x10, 0x2F] 0xC5) (block 1 0x2F10)) =
      raised (.checksumMismatch 0xC4 0xC5) ∧
    resultOf (exec (.parse 0x6BC940 0x2F10 0x0001 3 0x86 [0x10, 0x2F] 0xC5) (block 1 0x2F10)) =
      raised (.crcMismatch 0x6BC941 0x6BC940) ∧
    resultOf (exec (.parse 0x6BC941 0x2F10 0x0001 3 0x86 [0x10, 0x2F] 0xC4) (block 1 0x2F11)) =
      raised (.addressMismatch 0x2F11 0x2F10) ∧
    resultOf (exec (.parse 0x6BC941 0x2F10 0x0001 4 0x86 [0x10, 0x2F] 0xC4) (block 1 0x2F10)) =
      raised (.framingError (.exactly 4) 3) ∧
    faultOf (exec (.parse 0x6BC941 0x2F10 0x0001 3 0x86 [0x10, 0x2F] 0xC4) unset) = some (.addressUnset .dst) := by
  decide +kernel

/-- V-RSP-1, V-RSP-2. -/
theorem test_rdresp :
    resultOf (exec .rdresp unset) = output (.response none none) ∧
    resultOf (exec .rdresp { unset with respCode := some 0x86, respData := some [0x10, 0x2F] }) =
      output (.response (some 0x86) (some [0x10, 0x2F])) := by decide

/-- V-ILL-1 to V-ILL-5, through a step. -/
theorem test_reserved_selectors :
    resultOf (step (issueFirst unset (.op 0x0 []))) = raised (.illegalOperation 0x0) ∧
    resultOf (step (issueFirst unset (.op 0xC []))) = raised (.illegalOperation 0xC) ∧
    resultOf (step (issueFirst unset (.op 0xD []))) = raised (.illegalOperation 0xD) ∧
    resultOf (step (issueFirst unset (.op 0xE []))) = raised (.illegalOperation 0xE) ∧
    resultOf (step (issueFirst unset (.op 0xF [.u8 0]))) = raised (.illegalOperation 0xF) := by decide

/-- P2: discovery in an exchange; the session follows it. -/
theorem test_getNetworkId_discovers :
    resultOf (exec .getNetworkId (host 0x2FFF (frameReads [expected]))) = output (.decoded (.networkId 0x2F10)) ∧
    sessionOf (exec .getNetworkId (host 0x2FFF (frameReads [expected]))) = some (0x0001, 0x2F10) := by decide +kernel

/-- P5 and its variant; P3. -/
theorem test_getNetworkId_retries :
    resultOf (exec .getNetworkId (host 0x2F10 (frameReads [foreign, foreign, expected]))) =
      output (.decoded (.networkId 0x2F10)) ∧
    resultOf (exec .getNetworkId (host 0x2F10 (frameReads [foreign, foreign, foreign, foreign, foreign, expected]))) =
      raised .retryLimitExceeded ∧
    resultOf (exec .getNetworkId (host 0x2FFF (frameReads [corrupted]))) = raised (.crcMismatch 0x6BC941 0x6BC940) ∧
    sessionOf (exec .getNetworkId (host 0x2FFF (frameReads [corrupted]))) = some (0x0001, 0x2FFF) := by decide +kernel

/-- V-CAT-4, V-CAT-5, V-CAT-6. -/
theorem test_getConfig_decodes :
    ok (decodeConfig Config.modeTableDefault [0x10, 0x00, 0x20]) =
      some (.config ⟨0x10, false, false, .normal, false, true⟩) ∧
    ok (decodeConfig Config.modeTableDefault [0x10, 0x00, 0xFF]) =
      some (.config ⟨0x10, true, true, .slaveSR, true, true⟩) ∧
    ok (decodeConfig Config.modeTableDefault [0x00, 0x00, 0x0C]) =
      some (.config ⟨0, false, false, .slaveSR, false, false⟩) := by decide

/-- An exchange with GetNetworkID's response: R117. -/
theorem test_getConfig_rejects_code :
    resultOf (exec .getConfig (host 0x2F10 (frameReads [expected]))) = raised (.decodeError 0x80 (some 0x86)) := by
  decide +kernel

/-- R123's example data, V-CAT-5's re-encoding, V-CAT-7. -/
theorem test_setConfig_encodes :
    encodeRequest Config.modeTableDefault (.setConfig ⟨0x10, false, false, .normal, false, true⟩) =
      (0x00, [0x10, 0x00, 0x20]) ∧
    configByte Config.modeTableDefault ⟨0x10, true, true, .slaveSR, true, true⟩ = 0x3F := by decide

theorem test_setConfig_acknowledgement :
    resultOf (exec (.setConfig ⟨0x10, false, false, .normal, false, true⟩) (host 0x2F10 (frameReads [expected]))) =
      raised (.decodeError 0x80 (some 0x86)) := by decide +kernel

/-- P4: the whole exchange. -/
theorem test_getLastPacket :
    resultOf (exec (.getLastPacket 0x0010) (host 0x2F10 [⟨[0x62, 0xE2, 0xDF, 0x10, 0x2F, 0x01, 0x00, 0x0E], .count 8⟩,
        ⟨[0x82, 0x10, 0x00, 0x01, 0x00, 0x12, 0x05, 0xAB, 0x07, 0x1E, 0x0E, 0x09, 0x05, 0x18, 0xAD], .count 15⟩])) =
      output (.decoded (.lastPacket (some (0x0010, ⟨7, 1, some 0x1205, some ⟨2024, 6, 10, 14, 30⟩⟩)))) := by
  decide +kernel

/-- V-CAT-8, V-CAT-16. -/
theorem test_getLastPacket_lengths :
    ok (decodeLastPacket table []) = some (.lastPacket none) ∧
    decodePayload unset (.getLastPacket 0x10) (List.replicate 12 0) = .error (.decodeError 13 (some 12)) := ⟨rfl, rfl⟩

/-- V-CAT-11. -/
theorem test_getHistory_records :
    ok (decodeHistory table 0x0010 [0x10, 0x00,
      0x01, 0xFF, 0x12, 0x02, 0x55, 0x03, 0x00, 0x00, 0x00, 0x00, 0x18,
      0x01, 0x00, 0x13, 0x03, 0x66, 0x04, 0x3B, 0x17, 0x1C, 0x01, 0x18,
      0x01, 0x00, 0x13, 0x04, 0x77, 0x05, 0x00, 0x00, 0x1D, 0x01, 0x1E]) =
    some (.history [⟨3, 1, some 0x1301, some ⟨2024, 1, 1, 0, 0⟩⟩, ⟨4, 1, some 0x1303, some ⟨2024, 2, 29, 23, 59⟩⟩,
      ⟨5, 1, none, none⟩]) := by decide +kernel

/-- V-CAT-10, 12 to 15. -/
theorem test_getHistory_checks :
    ok (decodeHistory table 0x10 []) = some (.history []) ∧
    decodeHistory table 0x10 [0x10] = .error (.decodeError 2 (some 1)) ∧
    decodeHistory table 0x10 [0x11, 0x00] = .error (.addressMismatch 0x10 0x11) ∧
    decodeHistory table 0x10 (0x10 :: 0x00 :: List.replicate 12 0) = .error (.framingError (.multipleOf 11) 12) ∧
    ok (decodeHistory table 0x10 [0x10, 0x00]) = some (.history []) := ⟨rfl, rfl, rfl, rfl, rfl⟩

/-- V-DATE-1 to V-DATE-9. -/
theorem test_dates :
    mkDate 30 1 29 0 0 = none ∧ mkDate 24 1 28 23 59 = some ⟨2024, 2, 29, 23, 59⟩ ∧
    mkDate 0 1 28 0 0 = some ⟨2000, 2, 29, 0, 0⟩ ∧ mkDate 100 1 28 0 0 = none ∧ mkDate 24 12 0 0 0 = none ∧
    mkDate 24 0 0 24 0 = none ∧ mkDate 24 0 0 23 60 = none ∧ mkDate 255 11 30 23 59 = some ⟨2255, 12, 31, 23, 59⟩ ∧
    mkDate 24 3 30 0 0 = none := by decide

/-- R138, R144: a closed line is opened and configured; the failure of the open ends the exchange. -/
theorem test_line_is_opened :
    (match (Transport.reset).ensureReady with
      | (t, .ok ()) => t.isOpen && t.configured && t.log == [.openLine, .configure]
      | _ => false) = true ∧
    resultOf (exec .getConfig { block 1 2 with transport := { Transport.reset with calls := [.failed cut] } }) =
      raised (.transportFault .connectionFault) := by decide +kernel

/-- R144: a flush discards unread and unwritten bytes; a read returns at most what is there. -/
theorem test_line_buffers :
    let line := { Transport.reset with incoming := [1, 2, 3], unwritten := [4], reads := [⟨[5], .count 4⟩] }
    (line.flush.1.incoming, line.flush.1.unwritten) = ([], []) ∧
    ok (line.read 8).2 = some [1, 2, 3, 5] ∧ (line.read 8).1.incoming = [] ∧
    ok (line.flush.1.read 8).2 = some [5] ∧
    ok ({ line with reads := [] }.read 2).2 = some [1, 2] ∧ ok ({ line with reads := [] }.read 4).2 = none := by decide

/-- R144 with the model's choices of log 25: what a failed write and a failed read leave. -/
theorem test_line_failures :
    let line := { Transport.reset with isOpen := true, configured := true, calls := [.failed slow] }
    ((line.write [1, 2, 3, 4]).1.unwritten, (line.write [1, 2, 3, 4]).1.isOpen) = ([4], true) ∧
    ({ line with reads := [⟨[7], .failed cut⟩] }.read 8).1.isOpen = false ∧
    ({ line with reads := [⟨[7], .failed cut⟩] }.read 8).1.incoming = [7] := by decide

/-! ## Witnesses of the statements' hypotheses -/

theorem witness_CrcIsTwentyFourBitRegister : (0xFFFFFF : Nat) < 2 ^ 24 ∧ (0 : Nat) < 2 ^ 24 := by decide

theorem witness_OneCorruptedByteChangesCrc : (0x00 : Byte) ≠ 0xFF := by decide

theorem witness_ReconAcceptsTableCode :
    (romRead (block 1 2).rtableHi 0xFF).toNat = (0x9C : Byte).toNat * 256 + (0xFF : Byte).toNat ∧
    (romRead (block 1 2).rtableHi 0xFF).toNat ≠ (0x9D : Byte).toNat * 256 + (0xFF : Byte).toNat := by decide +kernel

theorem witness_ReconAcceptsOneCheckByte : reconstruct table 0xFFFF 0xFF 0x9C = some 0x100FE := by decide +kernel

theorem witness_TableIsNeverWritten :
    (∃ t, exec (.ldaddr 1 2) unset = .next t) ∧ ∃ t, step (issueFirst unset (.op 0xB [])) = .next t := ⟨⟨_, rfl⟩, ⟨_, rfl⟩⟩

theorem witness_RdaddrReturnsAddresses :
    ((block 1 2).srcSet = true ∧ (block 1 2).dstSet = true) ∧ unset.srcSet = false ∧
    { block 1 2 with dstSet := false }.dstSet = false := by decide

theorem witness_FaultExactlyOnUnsetAddress :
    readsUnset (block 1 2) (.compose 0x86 []) = false ∧ readsUnset unset .rdresp = false ∧
    readsUnset unset .getConfig = false := by decide

theorem witness_UnsetFaultNamesTheRegister :
    exec .rdaddr { block 1 2 with srcSet := false } = .fault (.addressUnset .src) ∧
    exec (.srcmatch 5) unset = .fault (.addressUnset .dst) ∧
    exec (.compose 0x86 []) unset = .fault (.addressUnset .both) := ⟨rfl, rfl, rfl⟩

theorem witness_FaultIsNeverCleared :
    (issueFirst unset (.op 0x6 [.u8 0x86, .bytes []])).pending = .op 0x6 [.u8 0x86, .bytes []] :: [] ∧
    decode (.op 0x6 [.u8 0x86, .bytes []]) = .ok (.compose 0x86 []) ∧
    readsUnset (issueFirst unset (.op 0x6 [.u8 0x86, .bytes []])) (.compose 0x86 []) = true := ⟨rfl, rfl, rfl⟩

theorem witness_ComposeBuildsRequestFrame :
    (block 1 2).srcSet = true ∧ (block 1 2).dstSet = true ∧ (List.replicate 254 (0 : Byte)).length ≤ 254 ∧
    ([] : Bytes).length ≤ 254 := by decide +kernel

theorem witness_ComposeRefusesLongPayload :
    ((block 1 2).srcSet = true ∧ (block 1 2).dstSet = true ∧ 254 < (List.replicate 255 (0 : Byte)).length) ∧
    unset.srcSet = false ∧ { block 1 2 with dstSet := false }.dstSet = false := by decide +kernel

theorem witness_ComposeDependsOnAddressesOnly :
    (host 2 []).src = (block 1 2).src ∧ (host 2 []).srcSet = (block 1 2).srcSet ∧ (host 2 []).dst = (block 1 2).dst ∧
    (host 2 []).dstSet = (block 1 2).dstSet ∧ ∃ t, exec (.compose 0x86 []) (block 1 2) = .next t :=
  ⟨rfl, rfl, rfl, rfl, ⟨_, rfl⟩⟩

theorem witness_ComposedFrameIsParsedBack :
    (block 1 2).srcSet = true ∧ (block 1 2).dstSet = true ∧ (List.replicate 254 (0 : Byte)).length ≤ 254 ∧
    ((block 2 1).dstSet = true ∧ (block 2 1).dst = (block 1 2).src) ∧
    (block 2 0x2FFF).dstSet = true ∧ (block 2 0x2FFF).dst = 0x2FFF := by decide +kernel

theorem witness_FrameEncodeDecodeAgree :
    expected.lengthAgrees = true ∧ decodeFrame [0, 0, 0, 0, 0, 0, 0, 1, 0x86, 0x85] =
      some ⟨⟨0, 0, 0, 1⟩, ⟨0x86, [], 0x85⟩⟩ := by decide

theorem witness_IssueEncodeDecodeAgree :
    decode (.op 0x5 []) = .ok .rdaddr ∧ decode (.op 0xF [.u8 0]) = .ok .reservedF ∧ operandTypes 0xF = none :=
  ⟨rfl, rfl, rfl⟩

theorem witness_SelectorMapIsTotal : decode (.op 0x0 []) = .ok .reserved0 ∧ decode (.op 0xF []) = .ok .reservedF :=
  ⟨rfl, rfl⟩

theorem witness_ReservedSelectorRaisesIllegal :
    ∀ selector ∈ [0x0#4, 0xC#4, 0xD#4, 0xE#4, 0xF#4], selector ∈ [0x0#4, 0xC#4, 0xD#4, 0xE#4, 0xF#4] := by decide

theorem witness_HdrExtractsFields :
    ([0x41] : Bytes).length ≠ 0 ∧ ([0x41] : Bytes).length ≠ 8 ∧ (List.replicate 9 (0 : Byte)).length ≠ 0 ∧
    (List.replicate 9 (0 : Byte)).length ≠ 8 := by decide +kernel

theorem witness_BodyExtractsFields :
    (1 : Byte).toNat = 1 + ([] : Bytes).length ∧ (255 : Byte).toNat = 1 + (List.replicate 254 (0 : Byte)).length ∧
    ([] : Bytes).length ≠ (0 : Byte).toNat + 1 ∧ (List.replicate 255 (0 : Byte)).length ≠ (255 : Byte).toNat + 1 := by
  decide +kernel

theorem witness_SrcmatchDiscoversAndMatches :
    (block 1 0x2FFF).dstSet = true ∧ (block 1 0x2FFF).dst = 0x2FFF#16 ∧ discoverable 0x2F01 ∧ discoverable 0x2FFE ∧
    ¬ ((block 1 0x2FFF).dst = 0x2FFF#16 ∧ discoverable 0x2F00) ∧
    ¬ ((block 1 0x2FFF).dst = 0x2FFF#16 ∧ discoverable 0x2FFF) ∧
    ¬ ((block 1 0x2F10).dst = 0x2FFF#16 ∧ discoverable 0x2F10) ∧ unset.dstSet = false := by
  unfold discoverable; decide

theorem witness_DiscoveryHappensOnce :
    (block 1 0x2FFF).dstSet = true ∧ (block 1 0x2FFF).dst = 0x2FFF#16 ∧ discoverable 0x2F10 ∧
    (0x2F20 : Addr) ≠ 0x2F10 ∧ ∃ t, exec (.srcmatch 0x2F10) (block 1 0x2FFF) = .next t :=
  ⟨by decide, by decide, by unfold discoverable; decide, by decide, ⟨_, rfl⟩⟩

theorem witness_ParseChecksInOrder :
    exec (.parse 0 0 0 0 0 [] 0) unset = .fault (.addressUnset .dst) ∧
    (1 : Byte).toNat = 1 + ([] : Bytes).length ∧ (255 : Byte).toNat = 1 + (List.replicate 254 (0 : Byte)).length :=
  ⟨rfl, by decide +kernel, by decide +kernel⟩

theorem witness_AcceptedResponseSwapsRoles :
    (block 1 0x2F10).dstSet = true ∧ expected.lengthAgrees = true ∧ intact expected ∧
    (block 1 0x2F10).dst = expected.header.src ∧ (block 1 0x2FFF).dst = 0x2FFF#16 := by
  unfold intact; decide +kernel

theorem witness_CorruptedHeaderByteIsCaught :
    (block 1 0x2F10).dstSet = true ∧ (0x10 : Byte) ≠ 0x11 ∧
    le16 0x2F10 ++ le16 0x0001 ++ [3] = [] ++ 0x10 :: [0x2F, 0x01, 0x00, 0x03] ∧
    le16 0x2F11 ++ le16 0x0001 ++ [3] = [] ++ 0x11 :: [0x2F, 0x01, 0x00, 0x03] ∧
    (3 : Byte).toNat = 1 + ([0x10, 0x2F] : Bytes).length ∧
    le16 0x2F10 ++ le16 0x0001 ++ [3] = [0x10, 0x2F, 0x01, 0x00] ++ 0x03 :: [] ∧
    le16 0x2F10 ++ le16 0x0001 ++ [2] = [0x10, 0x2F, 0x01, 0x00] ++ 0x02 :: [] ∧
    (2 : Byte).toNat = 1 + ([0x10] : Bytes).length ∧
    (2 : Byte).toNat ≠ 1 + ([0x10, 0x2F] : Bytes).length := by decide

theorem witness_DiscoverySurvivesFailedParse :
    (block 1 0x2FFF).dstSet = true ∧ (block 1 0x2FFF).dst = 0x2FFF#16 ∧ discoverable 0x2F10 ∧
    ∃ t u, exec (.srcmatch 0x2F10) (block 1 0x2FFF) = .next t ∧
      exec (.parse 0 0x2F10 1 4 0x86 [0x10, 0x2F] 0xC4) t = .next u ∧
      u.result = some (.raise (.framingError (.exactly 4) 3)) :=
  ⟨by decide, by decide, by unfold discoverable; decide, ⟨_, _, rfl, rfl, rfl⟩⟩

theorem witness_StepRunsDecodedInstruction :
    ({ unset with pending := [.op 0xB [], .op 0x5 []] }.pending = .op 0xB [] :: [.op 0x5 []] ∧
      decode (.op 0xB []) = .ok .rdresp) ∧ unset.pending = [] ∧
    ({ unset with pending := [.op 0xB [.u8 0]] }.pending = .op 0xB [.u8 0] :: [] ∧
      decode (.op 0xB [.u8 0]) = .error (.operands 0xB)) := ⟨⟨rfl, rfl⟩, rfl, ⟨rfl, rfl⟩⟩

theorem witness_RaisingOperationWritesNothing :
    isBlockOperation (.hdr []) = true ∧
      ∃ t, exec (.hdr []) (block 1 2) = .next t ∧ t.result = some (.raise .noResponse) := ⟨rfl, ⟨_, rfl, rfl⟩⟩

theorem witness_BlockOperationsKeepTheirFrame :
    (isBlockOperation (.csum [1]) = true ∧ writesRegisters (.csum [1]) = false ∧
      ∃ t, exec (.csum [1]) unset = .next t) ∧
    isBlockOperation (.srcmatch 0x2F10) = true ∧ ∃ t, exec (.srcmatch 0x2F10) (block 1 0x2FFF) = .next t :=
  ⟨⟨rfl, rfl, ⟨_, rfl⟩⟩, rfl, ⟨_, rfl⟩⟩

theorem witness_ExchangesKeepTheirFrame : ∃ t, exec (instrOf .getConfig) unset = .next t := ⟨_, rfl⟩

theorem witness_BlockDependsOnRegistersOnly :
    isBlockOperation .rdaddr = true ∧ (host 2 []).registers = (block 1 2).registers ∧
    ∃ t, exec .rdaddr (block 1 2) = .next t := ⟨rfl, rfl, ⟨_, rfl⟩⟩

theorem witness_UnsetAddressIsUnobservable :
    agreeButUnset unset { unset with src := 7, dst := 9 } ∧ ¬ unset.src = 7 :=
  ⟨⟨by decide, by decide, rfl⟩, by decide⟩

theorem witness_StepKeepsInvariant :
    (issueFirst (block 1 2) (.op 0x5 [])).Inv ∧ ∃ t, step (issueFirst (block 1 2) (.op 0x5 [])) = .next t :=
  ⟨⟨rfl, rfl, by simp [block], by decide, by decide⟩, ⟨_, rfl⟩⟩

/-- Also the hypothesis of `ConfigRoundTrips` and `ConfigByteKeepsLowSixBits`. -/
theorem witness_RequestsAreTheCatalogs :
    Config.modeTableDefault.toList.Nodup ∧
    (#v[Mode.slaveSR, .normal, .slaveSRT, .masterSR] : Vector Mode 4).toList.Nodup := by decide

theorem witness_WrongResponseCodeIsDecodeError :
    let s := { block 1 2 with respCode := some 0x80, respData := some [0x10, 0x2F] }
    s.respCode = some 0x80 ∧ s.respData = some [0x10, 0x2F] ∧ (0x80 : Byte) ≠ expectedCode s.setConfigAck .getNetworkId := by
  decide

/-- A state whose stored response has the code kind `k` expects. -/
def answered (k : CommandKind) (data : Bytes) : State :=
  { block 1 2 with respCode := some (expectedCode (block 1 2).setConfigAck k), respData := some data }

theorem witness_FixedLengthPayloadsDecode :
    (∀ k ∈ [CommandKind.getNetworkId, .getConfig, .setConfig ⟨0x10, false, false, .normal, false, true⟩,
        .getLastPacket 0x10, .getHistory 0x10],
      (answered k [0x10, 0x2F]).respCode = some (expectedCode (answered k [0x10, 0x2F]).setConfigAck k) ∧
      (answered k [0x10, 0x2F]).respData = some [0x10, 0x2F]) ∧
    ([1] : Bytes).length ≠ 2 ∧ ([1, 2, 3] : Bytes).length ≠ 2 ∧ ([1, 2] : Bytes).length ≠ 3 ∧ ([] : Bytes).length ≠ 3 ∧
    (List.replicate 12 (0 : Byte)).length ≠ 0 ∧ (List.replicate 12 (0 : Byte)).length ≠ 13 := by decide +kernel

theorem witness_HistoryDecodesEveryChunkInOrder :
    ([] : Bytes).length = 11 * 0 ∧ (List.replicate 22 (0 : Byte)).length = 11 * 2 ∧ 1 < 2 := by decide +kernel

theorem witness_HistoryErrorsInOrder :
    (0x11 : Addr) ≠ 0x10 ∧ ¬ 11 ∣ ([1] : Bytes).length ∧ ¬ 11 ∣ (List.replicate 12 (0 : Byte)).length := by decide +kernel

/-- Four foreign frames on an open line; discovery on a line to be opened, both frames in one piece with a stale byte
left over. -/
theorem witness_ExchangeReturnsDecodedResponse :
    (lineReady (host 0x2F10 (frameReads [foreign, foreign, foreign, foreign, expected])) ∧
      [foreign, foreign, foreign, foreign].length ≤ 4 ∧
      (∀ g ∈ [foreign, foreign, foreign, foreign], g.lengthAgrees = true ∧ ¬ fromExpected 0x2F10 g.header.src) ∧
      expected.lengthAgrees = true ∧ intact expected ∧ fromExpected 0x2F10 expected.header.src ∧
      afterReads [] (frameReads [foreign, foreign, foreign, foreign, expected])
        (chunksOf ([foreign, foreign, foreign, foreign] ++ [expected])) = some ([], [])) ∧
    lineReady (block 1 0x2FFF) ∧ fromExpected 0x2FFF expected.header.src ∧
    afterReads [] [⟨encodeFrame expected ++ [0xEE], .count 8⟩] (chunksOf ([] ++ [expected])) = some ([0xEE], []) := by
  simp only [lineReady, fromExpected, discoverable, intact]
  decide +kernel

theorem witness_FiveMismatchesExhaustRetries :
    lineReady (host 0x2F10 (frameReads [foreign, foreign, foreign, foreign, foreign])) ∧
    [foreign, foreign, foreign, foreign, foreign].length = 5 ∧
    (∀ g ∈ [foreign, foreign, foreign, foreign, foreign],
      g.lengthAgrees = true ∧ ¬ fromExpected 0x2F10 g.header.src) ∧
    afterReads [] (frameReads [foreign, foreign, foreign, foreign, foreign])
      (chunksOf [foreign, foreign, foreign, foreign, foreign]) = some ([], []) := by
  simp only [lineReady, fromExpected, discoverable]
  decide +kernel

theorem witness_CorruptedExpectedFrameIsFatal :
    lineReady (host 0x2FFF (frameReads [corrupted])) ∧ corrupted.lengthAgrees = true ∧
    fromExpected 0x2FFF corrupted.header.src ∧
    afterReads [] (frameReads [corrupted]) (chunksOf ([] ++ [corrupted])) = some ([], []) ∧
    crc24 (le16 0x2F10 ++ le16 0x0001 ++ [3]) ≠ corrupted.header.crc ∧
    crc24 (le16 0x2F10 ++ le16 0x0001 ++ [3]) = expected.header.crc ∧
    checksum [0x86, 0x10, 0x2F] ≠ 0xC5 := by
  simp only [lineReady, fromExpected, discoverable]
  decide +kernel

/-- Each outcome of the header read and of the body read, after a foreign frame. -/
theorem witness_BadReadEndsExchange :
    (lineReady (host 0x2F10 (frameReads [foreign])) ∧
      (∀ g ∈ [foreign], g.lengthAgrees = true ∧ ¬ fromExpected 0x2F10 g.header.src) ∧
      afterReads [] (frameReads [foreign] ++ [⟨[1], .failed cut⟩]) (chunksOf [foreign]) =
        some ([], [⟨[1], .failed cut⟩])) ∧
    (∀ t : Transport, t.incoming = [] →
      (t.reads = [⟨[1], .failed cut⟩] → (t.read 8).2 = .error .connectionFault) ∧
      (t.reads = [] → (t.read 8).2 = .error .timeout) ∧
      (t.reads = [⟨[], .count 8⟩] → (t.read 8).2 = .ok []) ∧
      (t.reads = [⟨[1], .count 8⟩] → (t.read 8).2 = .ok [1]) ∧
      (t.reads = [⟨encodeHeader expected.header, .count 8⟩] → (t.read 8).2 = .ok (encodeHeader expected.header)) ∧
      (t.reads = [⟨[0x86], .count 4⟩] → (t.read 4).2 = .ok [0x86]) ∧
      (t.reads = [⟨[0x86], .count 1⟩] → (t.read 1).2 = .ok [0x86])) := by
  refine ⟨by simp only [lineReady, fromExpected, discoverable]; decide +kernel, fun t h => ?_⟩
  refine ⟨?_, ?_, ?_, ?_, ?_, ?_, ?_⟩ <;> intro h' <;> simp [Transport.read, h, h', cut, encodeHeader, le24, crcCoverage, le16]

/-- A failing open, configure (of a closed and of an open line), flush and write. -/
theorem witness_FailedSendStepEndsExchange :
    let line := Transport.reset
    let opened := { Transport.reset with isOpen := true }
    .openLine ∈ readyCalls line ∧ .configure ∈ readyCalls line ∧ .configure ∈ readyCalls opened ∧
    [CallOutcome.done, .failed cut] = List.replicate ((readyCalls line).length - 1) .done ++ .failed cut :: [] ∧
    [CallOutcome.failed cut] = List.replicate ((readyCalls opened).length - 1) .done ++ .failed cut :: [] ∧
    [CallOutcome.done, .done, .failed slow] = List.replicate (readyCalls line).length .done ++ .failed slow :: [] ∧
    [CallOutcome.done, .done, .done, .failed slow] =
      List.replicate ((readyCalls line).length + 1) .done ++ .failed slow :: [] := by decide

theorem witness_ExchangeReadsAtMostFiveFrames : ∃ t, exec (instrOf .getNetworkId) unset = .next t := ⟨_, rfl⟩

end Sys2Proof.Tests
end

section
/-! SUPPORT. The family 10_state.md: what a step, a block operation and an exchange read and write of the state
(spec/10_state.md R19 to R30). Each reading rule is said once, as a lemma about `exec`, and the obligations follow. -/

namespace Sys2Proof.Machine

open Sys2Proof.Claim
open Host (Outcome)

/-! ## A step, by the queue -/

theorem step_idle {s : State} (h : s.pending = []) : step s = .next s := by
  simp [step, takeIssue_nil s h]

theorem step_ok {s : State} {issue : Issue} {rest : List Issue} {i : Instr} (h : s.pending = issue :: rest)
    (hd : decode issue = .ok i) : step s = exec i { s with pending := rest } := by
  simp [step, takeIssue_cons s h, hd]

theorem step_error {s : State} {issue : Issue} {rest : List Issue} {e : IssueError} (h : s.pending = issue :: rest)
    (hd : decode issue = .error e) : step s = .refused (refusalOf e) := by
  simp [step, takeIssue_cons s h, hd]

/-! ## One equation per instruction that depends on the address registers -/

theorem exec_rdaddr_set {s : State} (h : s.srcSet = true) (h' : s.dstSet = true) :
    exec .rdaddr s = complete s (.addresses s.src s.dst) := by
  simp [exec, execRdaddr, readAddresses_set h h']

theorem exec_compose (s : State) (code : Byte) (data : Bytes) :
    exec (.compose code data) s = report s ((composeFrame s code data).map .frame) := rfl

theorem exec_srcmatch_unset {s : State} (h : s.dstSet = false) (src : Addr) :
    exec (.srcmatch src) s = .fault (.addressUnset .dst) := by
  simp [exec, execSrcmatch, matchSource, readDst_unset h]

theorem exec_srcmatch_set {s : State} (h : s.dstSet = true) (src : Addr) :
    exec (.srcmatch src) s =
      if discovers s.dst src then complete { s with dst := src } (.matched true)
      else complete s (.matched (src == s.dst)) := by
  cases hd : discovers s.dst src <;> simp [exec, execSrcmatch, matchSource, readDst_set h, hd]

section
variable {s : State} {crc : Crc} {src dst : Addr} {length code : Byte} {data : Bytes} {sum : Byte}

theorem exec_parse_ok (h : checkResponse s ⟨⟨crc, src, dst, length⟩, ⟨code, data, sum⟩⟩ = .ok ()) :
    exec (.parse crc src dst length code data sum) s =
      complete (acceptResponse s ⟨⟨crc, src, dst, length⟩, ⟨code, data, sum⟩⟩) .unit := by
  simp [exec, execParse, parseResponse, h]

theorem exec_parse_error {c : Cause}
    (h : checkResponse s ⟨⟨crc, src, dst, length⟩, ⟨code, data, sum⟩⟩ = .error c) :
    exec (.parse crc src dst length code data sum) s = raise s c := by
  simp [exec, execParse, parseResponse, h]

end

/-! ## The operations that write no register -/

/-- The states agree in what the operations that write no register read: the guarded addresses, the table, the stored
response. -/
structure SameReads (s s' : State) : Prop where
  addresses : readAddresses s' = readAddresses s
  table     : s'.rtableHi = s.rtableHi
  code      : s'.respCode = s.respCode
  data      : s'.respData = s.respData

/-- An operation that writes no register reports the same in states that agree in what it reads. -/
theorem readOnly_report {i : Instr} {s s' : State} (hb : isBlockOperation i = true) (hw : writesRegisters i = false)
    (h : SameReads s s') : ∃ r, exec i s = report s r ∧ exec i s' = report s' r := by
  cases i
  case recon => exact ⟨.ok _, rfl, by simp only [exec, execRecon, h.table, report_ok]⟩
  case rdaddr => exact ⟨_, rfl, by simp only [exec, execRdaddr, h.addresses]⟩
  case compose => exact ⟨_, rfl, by rw [exec_compose, composeFrame_congr h.addresses]⟩
  case rdresp => exact ⟨.ok _, rfl, by simp only [exec, execRdresp, h.code, h.data, report_ok]⟩
  case hdr => exact ⟨_, rfl, rfl⟩
  case body => exact ⟨_, rfl, rfl⟩
  case crc24 => exact ⟨.ok _, rfl, rfl⟩
  case csum => exact ⟨.ok _, rfl, rfl⟩
  case ldaddr | srcmatch | parse => cases hw
  case getNetworkId | getConfig | setConfig | getLastPacket | getHistory => cases hb
  all_goals exact ⟨.error _, rfl, rfl⟩

/-! ## The command kinds -/

theorem exec_instrOf (k : CommandKind) (s : State) : exec (instrOf k) s = reportExchange (exchange k s) := by
  cases k <;> rfl

/-- The instructions are the block operations and the command kinds. -/
theorem isBlockOperation_or_instrOf (i : Instr) : isBlockOperation i = true ∨ ∃ k, i = instrOf k := by
  cases i
  case getNetworkId => exact .inr ⟨.getNetworkId, rfl⟩
  case getConfig => exact .inr ⟨.getConfig, rfl⟩
  case setConfig c => exact .inr ⟨.setConfig c, rfl⟩
  case getLastPacket counterId => exact .inr ⟨.getLastPacket counterId, rfl⟩
  case getHistory counterId => exact .inr ⟨.getHistory counterId, rfl⟩
  all_goals exact .inl rfl

/-- An exchange answers a next state with every carried property that ignores the result. -/
theorem exec_instrOf_carried {P : State → Prop} (hP : Carried P) (hres : ∀ s r, P s → P { s with result := r })
    {k : CommandKind} {s : State} (h : P (loadAddresses s s.sessSrc s.sessDst)) :
    ∃ t, exec (instrOf k) s = .next t ∧ P t := by
  obtain ⟨r, hr, hPr⟩ := reportExchange_next (Keeps_exchange hP k h)
  exact ⟨_, by rw [exec_instrOf, hr], hres _ _ hPr⟩

/-- That both flags are set is carried through an exchange. -/
theorem carried_addressed : Carried fun s => s.srcSet = true ∧ s.dstSet = true where
  transport _ _ h := h
  adopt _ _ h := h
  accept _ _ _ _ _ := ⟨rfl, rfl⟩
  session _ _ _ h := h
  addressed _ h := h

theorem exec_instrOf_next (k : CommandKind) (s : State) : ∃ t, exec (instrOf k) s = .next t := by
  obtain ⟨t, ht, -⟩ := exec_instrOf_carried carried_addressed (fun _ _ h => h) (k := k) (s := s) ⟨rfl, rfl⟩
  exact ⟨t, ht⟩

/-! ## Unset address registers are unobservable (R21, R22) -/

/-- Agreement as a substitution: the second state is the first with other values in unset address registers. -/
theorem agreeButUnset_iff {s s' : State} : agreeButUnset s s' ↔
    ∃ src dst, (s.srcSet = true → src = s.src) ∧ (s.dstSet = true → dst = s.dst) ∧
      s' = { s with src := src, dst := dst } := by
  constructor
  · rintro ⟨hsrc, hdst, hs⟩
    exact ⟨s'.src, s'.dst, hsrc, hdst, hs⟩
  · rintro ⟨src, dst, hsrc, hdst, rfl⟩
    exact ⟨hsrc, hdst, rfl⟩

theorem agreeButUnset_refl (s : State) : agreeButUnset s s := ⟨fun _ => rfl, fun _ => rfl, rfl⟩

theorem sameOutcome_refl (o : Outcome State Fault Refusal) : sameOutcome o o := by
  cases o with
  | next s => exact agreeButUnset_refl s
  | fault f => rfl
  | refused r => rfl

section
variable {s s' : State} (h : agreeButUnset s s')
include h

theorem agreeButUnset_setResult (r : Option Result) :
    agreeButUnset { s with result := r } { s' with result := r } := by
  obtain ⟨src, dst, hsrc, hdst, rfl⟩ := agreeButUnset_iff.1 h
  exact ⟨hsrc, hdst, rfl⟩

theorem agreeButUnset_setPending (p : List Issue) :
    agreeButUnset { s with pending := p } { s' with pending := p } := by
  obtain ⟨src, dst, hsrc, hdst, rfl⟩ := agreeButUnset_iff.1 h
  exact ⟨hsrc, hdst, rfl⟩

theorem agreeButUnset_setDst (dst : Addr) : agreeButUnset { s with dst := dst } { s' with dst := dst } := by
  obtain ⟨src, dst', hsrc, hdst, rfl⟩ := agreeButUnset_iff.1 h
  exact ⟨hsrc, fun _ => rfl, rfl⟩

theorem agreeButUnset_pending : s'.pending = s.pending := by rw [h.2.2]

theorem agreeButUnset_dstSet : s'.dstSet = s.dstSet := by rw [h.2.2]

theorem agreeButUnset_readAddresses : readAddresses s' = readAddresses s :=
  readAddresses_congr (by rw [h.2.2]) (by rw [h.2.2]) h.1 h.2.1

theorem agreeButUnset_sameReads : SameReads s s' :=
  ⟨agreeButUnset_readAddresses h, by rw [h.2.2], by rw [h.2.2], by rw [h.2.2]⟩

theorem agreeButUnset_readDst : readDst s' = readDst s :=
  readDst_congr (agreeButUnset_dstSet h) h.2.1

/-- Loading the addresses overwrites both registers, so the states become one. -/
theorem agreeButUnset_loadAddresses :
    loadAddresses s' s'.sessSrc s'.sessDst = loadAddresses s s.sessSrc s.sessDst := by
  obtain ⟨src, dst, -, -, rfl⟩ := agreeButUnset_iff.1 h
  rfl

theorem agreeButUnset_acceptResponse (f : Frame) : acceptResponse s' f = acceptResponse s f := by
  obtain ⟨src, dst, -, -, rfl⟩ := agreeButUnset_iff.1 h
  rfl

theorem sameOutcome_complete (o : Output) : sameOutcome (complete s o) (complete s' o) :=
  agreeButUnset_setResult h _

theorem sameOutcome_raise (c : Cause) : sameOutcome (raise s c) (raise s' c) := by
  cases c
  case addressUnset w => rfl
  all_goals exact agreeButUnset_setResult h _

theorem sameOutcome_report (r : Except Cause Output) : sameOutcome (report s r) (report s' r) := by
  cases r with
  | ok o => exact sameOutcome_complete h o
  | error c => exact sameOutcome_raise h c

theorem sameOutcome_readOnly {i : Instr} (hb : isBlockOperation i = true) (hw : writesRegisters i = false) :
    sameOutcome (exec i s) (exec i s') := by
  obtain ⟨r, hs, hs'⟩ := readOnly_report hb hw (agreeButUnset_sameReads h)
  rw [hs, hs']
  exact sameOutcome_report h r

theorem sameOutcome_srcmatch (src : Addr) : sameOutcome (exec (.srcmatch src) s) (exec (.srcmatch src) s') := by
  have hset := agreeButUnset_dstSet h
  cases hd : s.dstSet with
  | false =>
    rw [exec_srcmatch_unset hd, exec_srcmatch_unset (hset.trans hd)]
    exact sameOutcome_refl _
  | true =>
    rw [exec_srcmatch_set hd, exec_srcmatch_set (hset.trans hd), h.2.1 hd]
    split
    · exact sameOutcome_complete (agreeButUnset_setDst h src) _
    · exact sameOutcome_complete h _

theorem sameOutcome_parse (crc : Crc) (src dst : Addr) (length code : Byte) (data : Bytes) (sum : Byte) :
    sameOutcome (exec (.parse crc src dst length code data sum) s)
      (exec (.parse crc src dst length code data sum) s') := by
  have hcheck := checkResponse_congr (agreeButUnset_readDst h) ⟨⟨crc, src, dst, length⟩, ⟨code, data, sum⟩⟩
  cases hc : checkResponse s ⟨⟨crc, src, dst, length⟩, ⟨code, data, sum⟩⟩ with
  | error c =>
    rw [exec_parse_error hc, exec_parse_error (hcheck.trans hc)]
    exact sameOutcome_raise h c
  | ok u =>
    rw [exec_parse_ok hc, exec_parse_ok (hcheck.trans hc), agreeButUnset_acceptResponse h]
    exact sameOutcome_refl _

theorem sameOutcome_exchange (k : CommandKind) : sameOutcome (exec (instrOf k) s) (exec (instrOf k) s') := by
  have hx : exchange k s' = exchange k s := by
    unfold exchange
    rw [agreeButUnset_loadAddresses h]
  rw [exec_instrOf, exec_instrOf, hx]
  exact sameOutcome_refl _

theorem sameOutcome_exec (i : Instr) : sameOutcome (exec i s) (exec i s') := by
  cases i
  case ldaddr src dst =>
    obtain ⟨_, _, -, -, rfl⟩ := agreeButUnset_iff.1 h
    exact sameOutcome_refl _
  case srcmatch src => exact sameOutcome_srcmatch h src
  case parse => exact sameOutcome_parse h ..
  case getNetworkId => exact sameOutcome_exchange h .getNetworkId
  case getConfig => exact sameOutcome_exchange h .getConfig
  case setConfig c => exact sameOutcome_exchange h (.setConfig c)
  case getLastPacket counterId => exact sameOutcome_exchange h (.getLastPacket counterId)
  case getHistory counterId => exact sameOutcome_exchange h (.getHistory counterId)
  all_goals exact sameOutcome_readOnly h rfl rfl

theorem sameOutcome_step : sameOutcome (step s) (step s') := by
  have hqueue := agreeButUnset_pending h
  cases hp : s.pending with
  | nil =>
    rw [step_idle hp, step_idle (hqueue.trans hp)]
    exact h
  | cons issue rest =>
    cases hd : decode issue with
    | error e =>
      rw [step_error hp hd, step_error (hqueue.trans hp) hd]
      exact sameOutcome_refl _
    | ok i =>
      rw [step_ok hp hd, step_ok (hqueue.trans hp) hd]
      exact sameOutcome_exec (agreeButUnset_setPending h rest) i

end

/-- Settles O42: an exchange loads both registers first, and a block operation reads them under their flags. -/
theorem unsetAddressIsUnobservable : Obligations.UnsetAddressIsUnobservable :=
  fun _ _ h => sameOutcome_step h

/-! ## The invariant (R26) -/

theorem inv_setResult {s : State} (h : s.Inv) (r : Option Result) : ({ s with result := r } : State).Inv :=
  { h with }

theorem inv_setPending {s : State} (h : s.Inv) (p : List Issue) : ({ s with pending := p } : State).Inv :=
  { h with }

theorem inv_setDst {s : State} (h : s.Inv) (dst : Addr) : ({ s with dst := dst } : State).Inv :=
  { h with }

theorem inv_loadAddresses {s : State} (h : s.Inv) (src dst : Addr) : (loadAddresses s src dst).Inv where
  flagsEqual := rfl
  responseTogether := rfl
  responseShort := by simp
  responseAddressed := by simp
  modesDistinct := h.modesDistinct

theorem inv_acceptResponse {s : State} {f : Frame} (h : s.Inv) (hd : s.dstSet = true)
    (hc : checkResponse s f = .ok ()) : (acceptResponse s f).Inv where
  flagsEqual := rfl
  responseTogether := rfl
  responseShort := by
    rintro _ ⟨⟩
    exact checkResponse_data_short hd hc
  responseAddressed := fun _ => rfl
  modesDistinct := h.modesDistinct

theorem carried_inv : Carried fun s => s.Inv ∧ s.srcSet = true ∧ s.dstSet = true where
  transport _ _ h := ⟨{ h.1 with }, h.2⟩
  adopt _ src h := ⟨inv_setDst h.1 src, h.2⟩
  accept _ _ h hd hc := ⟨inv_acceptResponse h.1 hd hc, rfl, rfl⟩
  session _ _ _ h := ⟨{ h.1 with }, h.2⟩
  addressed _ h := h.2

/-- A block operation outside `writesRegisters` writes the result alone. -/
theorem block_next_of_not_writes {i : Instr} {s t : State} (hb : isBlockOperation i = true)
    (hw : writesRegisters i = false) (h : exec i s = .next t) : t = { s with result := t.result } :=
  readOnly_next hb (by rintro _ _ rfl; cases hw) (by rintro _ rfl; cases hw)
    (by rintro _ _ _ _ _ _ _ rfl; cases hw) h

theorem block_keeps_inv {i : Instr} {s t : State} (hb : isBlockOperation i = true) (hs : s.Inv)
    (h : exec i s = .next t) : t.Inv := by
  cases i
  case ldaddr src dst =>
    cases h
    exact inv_setResult (inv_loadAddresses hs src dst) _
  case srcmatch src =>
    obtain ⟨-, -, rfl⟩ | ⟨-, -, rfl⟩ := srcmatch_next h
    · exact inv_setResult (inv_setDst hs src) _
    · exact inv_setResult hs _
  case parse =>
    obtain ⟨hd, ⟨hc, rfl⟩ | ⟨c, -, rfl⟩⟩ := parse_next h
    · exact inv_setResult (inv_acceptResponse hs hd hc) _
    · exact inv_setResult hs _
  all_goals
    rw [block_next_of_not_writes hb rfl h]
    exact inv_setResult hs _

theorem exec_keeps_inv {i : Instr} {s t : State} (hs : s.Inv) (h : exec i s = .next t) : t.Inv := by
  obtain hb | ⟨k, rfl⟩ := isBlockOperation_or_instrOf i
  · exact block_keeps_inv hb hs h
  · obtain ⟨t', ht, hinv, -⟩ := exec_instrOf_carried carried_inv (fun _ r h => ⟨inv_setResult h.1 r, h.2⟩) (k := k)
      (s := s) ⟨inv_loadAddresses hs _ _, rfl, rfl⟩
    cases ht.symm.trans h
    exact hinv

/-- Settles O45, by what the writers of registers keep and the principle that carries a property through an exchange. -/
theorem stepKeepsInvariant : Obligations.StepKeepsInvariant := by
  intro s t hs h
  obtain ⟨-, rfl⟩ | ⟨issue, rest, i, -, -, hx⟩ := step_next h
  · exact hs
  · exact exec_keeps_inv (inv_setPending hs rest) hx

/-! ## The table read (R27, R28) -/

/-- Settles O9: the entry is below 65536, and the mask takes it modulo 256. -/
theorem tableLowByteIsIndex : Obligations.TableLowByteIsIndex := by
  intro table i
  refine ⟨romRead_toNat table i, BitVec.eq_of_toNat_eq ?_⟩
  have hmask : (romRead table i).toNat &&& 255 = (romRead table i).toNat % 256 :=
    Nat.and_two_pow_sub_one_eq_mod _ 8
  have hi := i.isLt
  rw [BitVec.toNat_and, BitVec.toNat_setWidth, show (0xFF#16).toNat = 255 from rfl, hmask, romRead_toNat]
  omega

/-! ## Faults (R23) -/

/-- A report with no `AddressUnset` cause answers a next state. -/
theorem report_operational {s : State} {r : Except Cause Output} (h : ∀ c, r = .error c → Operational c) :
    ∃ t, report s r = .next t := by
  cases r with
  | ok o => exact ⟨_, rfl⟩
  | error c => exact ⟨_, raise_next s (h c rfl)⟩

/-- Typing an answer as an output keeps its error. -/
theorem error_of_map_eq_error {α : Type} {r : Except Cause α} {f : α → Output} {c : Cause}
    (h : r.map f = .error c) : r = .error c := by
  cases r with
  | ok a => cases h
  | error c' => cases h; rfl

theorem fault_of_readsUnset {i : Instr} {s : State} (h : readsUnset s i = true) :
    ∃ w, exec i s = .fault (.addressUnset w) := by
  cases i
  case rdaddr =>
    obtain ⟨w, hw⟩ := readAddresses_unset h
    exact ⟨w, by simp [exec, execRdaddr, hw]⟩
  case compose code data =>
    obtain ⟨w, hw⟩ := composeFrame_unset h code data
    exact ⟨w, by rw [exec_compose, hw]; rfl⟩
  case srcmatch src => exact ⟨.dst, exec_srcmatch_unset (by simpa [readsUnset] using h) src⟩
  case parse => exact ⟨.dst, by rw [exec_parse_error (checkResponse_unset (by simpa [readsUnset] using h) _)]; rfl⟩
  all_goals cases h

theorem next_of_not_readsUnset {i : Instr} {s : State} (h : readsUnset s i = false) :
    ∃ t, exec i s = .next t := by
  cases i
  case rdaddr =>
    obtain ⟨hsrc, hdst⟩ : s.srcSet = true ∧ s.dstSet = true := by simpa [readsUnset] using h
    exact ⟨_, exec_rdaddr_set hsrc hdst⟩
  case compose code data =>
    obtain ⟨hsrc, hdst⟩ : s.srcSet = true ∧ s.dstSet = true := by simpa [readsUnset] using h
    refine report_operational fun c hc w => ?_
    have he := error_of_map_eq_error hc
    rw [composeFrame_set hsrc hdst] at he
    split at he <;> cases he
    simp
  case hdr => exact report_operational fun c hc => extractHeader_error (error_of_map_eq_error hc)
  case body => exact report_operational fun c hc => extractBody_error (error_of_map_eq_error hc)
  case srcmatch src =>
    rw [exec_srcmatch_set (by simpa [readsUnset] using h)]
    split <;> exact ⟨_, rfl⟩
  case parse crc src dst length code data sum =>
    have hd : s.dstSet = true := by simpa [readsUnset] using h
    cases hc : checkResponse s ⟨⟨crc, src, dst, length⟩, ⟨code, data, sum⟩⟩ with
    | ok u => exact ⟨_, exec_parse_ok hc⟩
    | error c => exact ⟨_, by rw [exec_parse_error hc, raise_next s (checkResponse_error_set hd hc)]⟩
  case getNetworkId => exact exec_instrOf_next .getNetworkId s
  case getConfig => exact exec_instrOf_next .getConfig s
  case setConfig c => exact exec_instrOf_next (.setConfig c) s
  case getLastPacket counterId => exact exec_instrOf_next (.getLastPacket counterId) s
  case getHistory counterId => exact exec_instrOf_next (.getHistory counterId) s
  all_goals exact ⟨_, rfl⟩

/-- Settles O13: a read of an unset register faults, and without one there is a next state. -/
theorem faultExactlyOnUnsetAddress : Obligations.FaultExactlyOnUnsetAddress := by
  intro i s
  have hno : readsUnset s i = false → ∀ f, exec i s ≠ .fault f := by
    intro h f hf
    obtain ⟨t, ht⟩ := next_of_not_readsUnset h
    cases ht.symm.trans hf
  refine ⟨⟨fault_of_readsUnset, fun ⟨w, hw⟩ => ?_⟩, hno⟩
  by_contra h
  exact hno (by simpa using h) _ hw

/-! ## A block operation reads and writes the registers only (R19, R30, R86, R102) -/

/-- The registers and the result of `t` within the machine `host`. -/
def onto (host t : State) : State :=
  { host with
    src := t.src, srcSet := t.srcSet, dst := t.dst, dstSet := t.dstSet, respCode := t.respCode
    respData := t.respData, result := t.result }

/-- An outcome with its registers and result taken into the machine `host`. -/
def relocate (host : State) : Outcome State Fault Refusal → Outcome State Fault Refusal
  | .next t => .next (onto host t)
  | .fault f => .fault f
  | .refused r => .refused r

section
variable {s s' : State} (h : s'.registers = s.registers)
include h

/-- With equal registers, taking them into the other machine changes its result alone. -/
theorem onto_setResult (r : Option Result) : onto s' { s with result := r } = { s' with result := r } := by
  simp only [State.registers, Registers.mk.injEq] at h
  obtain ⟨h1, h2, h3, h4, h5, h6, -⟩ := h
  simp only [onto, ← h1, ← h2, ← h3, ← h4, ← h5, ← h6]

theorem registers_readAddresses : readAddresses s' = readAddresses s :=
  readAddresses_congr (congrArg (·.srcSet) h) (congrArg (·.dstSet) h) (fun _ => congrArg (·.src) h)
    fun _ => congrArg (·.dst) h

theorem registers_sameReads : SameReads s s' :=
  ⟨registers_readAddresses h, congrArg (·.rtableHi) h, congrArg (·.respCode) h, congrArg (·.respData) h⟩

theorem registers_readDst : readDst s' = readDst s :=
  readDst_congr (congrArg (·.dstSet) h) fun _ => congrArg (·.dst) h

theorem complete_relocate (o : Output) : complete s' o = relocate s' (complete s o) := by
  simp only [complete, relocate, onto_setResult h]

theorem raise_relocate (c : Cause) : raise s' c = relocate s' (raise s c) := by
  cases c
  case addressUnset w => rfl
  all_goals simp only [raise, relocate, onto_setResult h]

theorem report_relocate (r : Except Cause Output) : report s' r = relocate s' (report s r) := by
  cases r with
  | ok o => exact complete_relocate h o
  | error c => exact raise_relocate h c

theorem readOnly_relocate {i : Instr} (hb : isBlockOperation i = true) (hw : writesRegisters i = false) :
    exec i s' = relocate s' (exec i s) := by
  obtain ⟨r, hs, hs'⟩ := readOnly_report hb hw (registers_sameReads h)
  rw [hs, hs']
  exact report_relocate h r

theorem srcmatch_relocate (src : Addr) : exec (.srcmatch src) s' = relocate s' (exec (.srcmatch src) s) := by
  have hset : s'.dstSet = s.dstSet := congrArg (·.dstSet) h
  have hdst : s'.dst = s.dst := congrArg (·.dst) h
  cases hd : s.dstSet with
  | false => rw [exec_srcmatch_unset hd, exec_srcmatch_unset (hset.trans hd)]; rfl
  | true =>
    rw [exec_srcmatch_set hd, exec_srcmatch_set (hset.trans hd), hdst]
    split
    · exact congrArg (fun u : State => Outcome.next { u with dst := src }) (onto_setResult h _).symm
    · exact complete_relocate h _

theorem parse_relocate (crc : Crc) (src dst : Addr) (length code : Byte) (data : Bytes) (sum : Byte) :
    exec (.parse crc src dst length code data sum) s' =
      relocate s' (exec (.parse crc src dst length code data sum) s) := by
  have hcheck := checkResponse_congr (registers_readDst h) ⟨⟨crc, src, dst, length⟩, ⟨code, data, sum⟩⟩
  cases hc : checkResponse s ⟨⟨crc, src, dst, length⟩, ⟨code, data, sum⟩⟩ with
  | error c =>
    rw [exec_parse_error hc, exec_parse_error (hcheck.trans hc)]
    exact raise_relocate h c
  | ok u =>
    rw [exec_parse_ok hc, exec_parse_ok (hcheck.trans hc)]
    rfl

/-- A block operation does the same to the registers in every machine that holds the same registers, and keeps the
rest of that machine. -/
theorem block_relocate {i : Instr} (hb : isBlockOperation i = true) : exec i s' = relocate s' (exec i s) := by
  cases i
  case ldaddr => rfl
  case srcmatch src => exact srcmatch_relocate h src
  case parse => exact parse_relocate h ..
  case getNetworkId | getConfig | setConfig | getLastPacket | getHistory => cases hb
  all_goals exact readOnly_relocate h rfl rfl

end

/-- The frame of the block operations: a next state has the machine's own host, table and queue. -/
theorem block_next_onto {i : Instr} {s t : State} (hb : isBlockOperation i = true) (h : exec i s = .next t) :
    t = onto s t := by
  have hx := block_relocate (s' := s) rfl hb
  rw [h] at hx
  exact Outcome.next.inj hx

/-- Settles O38: the frame holds because a block operation relocates into its own machine. -/
theorem blockOperationsKeepTheirFrame : Obligations.BlockOperationsKeepTheirFrame := by
  intro i s t hb h
  refine ⟨block_next_onto hb h, fun hw => block_next_of_not_writes hb hw h, ?_⟩
  rintro src rfl
  obtain ⟨-, -, rfl⟩ | ⟨-, -, rfl⟩ := srcmatch_next h <;> rfl

/-- Settles O41: the second machine's outcome is the first's, relocated. -/
theorem blockDependsOnRegistersOnly : Obligations.BlockDependsOnRegistersOnly := by
  intro i s s' t hb h hx
  have htable : s'.rtableHi = t.rtableHi := by
    rw [block_next_onto hb hx]
    exact congrArg (·.rtableHi) h
  refine ⟨onto s' t, by rw [block_relocate h hb, hx]; rfl, ?_, rfl⟩
  simp only [State.registers, onto, htable]

/-! ## The frame of an exchange (R29, R136) -/

/-- The fields no instruction writes: the table, the parameters of the host and the queue. -/
def sameParameters (s t : State) : Prop :=
  t.rtableHi = s.rtableHi ∧ t.modeTable = s.modeTable ∧ t.setConfigAck = s.setConfigAck ∧ t.pending = s.pending

theorem carried_sameParameters (s : State) :
    Carried fun t => sameParameters s t ∧ t.srcSet = true ∧ t.dstSet = true where
  transport _ _ h := h
  adopt _ _ h := h
  accept _ _ h _ _ := ⟨h.1, rfl, rfl⟩
  session _ _ _ h := h
  addressed _ h := h.2

/-- Settles O39, by carrying the equalities through the exchange. -/
theorem exchangesKeepTheirFrame : Obligations.ExchangesKeepTheirFrame := by
  intro k s t h
  obtain ⟨t', ht, hsame, -⟩ := exec_instrOf_carried (carried_sameParameters s) (fun _ _ h => h) (k := k) (s := s)
    ⟨⟨rfl, rfl, rfl, rfl⟩, rfl, rfl⟩
  cases ht.symm.trans h
  exact hsame

theorem exec_keeps_parameters {i : Instr} {s t : State} (h : exec i s = .next t) : sameParameters s t := by
  obtain hb | ⟨k, rfl⟩ := isBlockOperation_or_instrOf i
  · rw [block_next_onto hb h]
    exact ⟨rfl, rfl, rfl, rfl⟩
  · exact exchangesKeepTheirFrame k s t h

/-- Settles O10, from the frames of the block operations and of the exchanges. -/
theorem tableIsNeverWritten : Obligations.TableIsNeverWritten := by
  refine ⟨fun i s t h => ?_, fun s t h => ?_⟩
  · obtain ⟨htable, hmodes, hack, -⟩ := exec_keeps_parameters h
    exact ⟨htable, hmodes, hack⟩
  · obtain ⟨-, rfl⟩ | ⟨issue, rest, i, -, -, hx⟩ := step_next h
    · rfl
    · exact (exec_keeps_parameters hx).1

/-! ## The result is read by nothing (R19) -/

/-- What an action gives, with another value in its state's result field. -/
def withResult {α : Type} (r : Option Result) (p : State × Except Cause α) : State × Except Cause α :=
  ({ p.1 with result := r }, p.2)

/-- A host action does the same whatever the result field holds, and leaves that field as it is. -/
def IgnoresResult {α : Type} (f : State → State × Except Cause α) : Prop :=
  ∀ s r, f { s with result := r } = withResult r (f s)

theorem ignoresResult_andThen {α β : Type} {f : State → State × Except Cause α}
    {next : α → State → State × Except Cause β} (hf : IgnoresResult f) (hn : ∀ a, IgnoresResult (next a)) :
    IgnoresResult fun s => andThen (f s) next := by
  intro s r
  simp only [hf s r]
  obtain ⟨t, c | a⟩ := f s
  · rfl
  · exact hn a t r

theorem ignoresResult_onTransport {α : Type} (f : Transport → Transport × Except TransportError α) :
    IgnoresResult (onTransport f) := fun _ _ => rfl

theorem ignoresResult_onBlock {α : Type} {f : State → Except Cause α} (h : ∀ s r, f { s with result := r } = f s) :
    IgnoresResult fun s => onBlock (f s) s := by
  intro s r
  simp only [onBlock, h, withResult]

theorem hostMatch_unset {s : State} (h : s.dstSet = false) (src : Addr) :
    hostMatch src s = (s, .error (.addressUnset .dst)) := by
  simp [hostMatch, matchSource, readDst_unset h]

theorem hostMatch_set {s : State} (h : s.dstSet = true) (src : Addr) :
    hostMatch src s =
      if discovers s.dst src then ({ s with dst := src }, .ok true) else (s, .ok (src == s.dst)) := by
  cases hd : discovers s.dst src <;> simp [hostMatch, matchSource, readDst_set h, hd]

theorem ignoresResult_hostMatch (src : Addr) : IgnoresResult (hostMatch src) := by
  intro s r
  obtain hd | hd := Bool.eq_false_or_eq_true s.dstSet
  · rw [hostMatch_set hd, hostMatch_set (s := { s with result := r }) hd]
    split <;> rfl
  · rw [hostMatch_unset hd, hostMatch_unset (s := { s with result := r }) hd]
    rfl

theorem ignoresResult_hostParse (f : Frame) : IgnoresResult (hostParse f) := by
  intro s r
  have hcheck : checkResponse { s with result := r } f = checkResponse s f := rfl
  simp only [hostParse, parseResponse, hcheck]
  cases checkResponse s f <;> rfl

theorem ignoresResult_hostStoreSession : IgnoresResult hostStoreSession := by
  intro s r
  have hread : readAddresses { s with result := r } = readAddresses s := rfl
  simp only [hostStoreSession, hread]
  cases readAddresses s <;> rfl

theorem ignoresResult_receiveLoop (k : CommandKind) (n : Nat) : IgnoresResult (receiveLoop k n) := by
  induction n with
  | zero => exact fun _ _ => rfl
  | succ n ih =>
    refine ignoresResult_andThen (ignoresResult_onTransport _) fun b => ?_
    refine ignoresResult_andThen (ignoresResult_onBlock fun _ _ => rfl) fun header => ?_
    refine ignoresResult_andThen (ignoresResult_onTransport _) fun b => ?_
    refine ignoresResult_andThen (ignoresResult_onBlock fun _ _ => rfl) fun body => ?_
    refine ignoresResult_andThen (ignoresResult_hostMatch _) fun verdict => ?_
    cases verdict with
    | false => exact ih
    | true =>
      simp only [if_true]
      refine ignoresResult_andThen (ignoresResult_hostParse _) fun _ => ?_
      refine ignoresResult_andThen ignoresResult_hostStoreSession fun _ => ?_
      exact ignoresResult_onBlock fun _ _ => rfl

theorem ignoresResult_sendRequest (k : CommandKind) : IgnoresResult (sendRequest k) := by
  refine ignoresResult_andThen (ignoresResult_onTransport _) fun _ => ?_
  refine ignoresResult_andThen (ignoresResult_onTransport _) fun _ => ?_
  refine ignoresResult_andThen (ignoresResult_onBlock fun _ _ => rfl) fun frame => ?_
  exact ignoresResult_andThen (ignoresResult_onTransport _) fun _ _ _ => rfl

theorem ignoresResult_exchange (k : CommandKind) : IgnoresResult (exchange k) :=
  ignoresResult_andThen (fun s r => ignoresResult_sendRequest k (loadAddresses s s.sessSrc s.sessDst) r)
    fun _ => ignoresResult_receiveLoop k _

/-! ### Reporting overwrites the result -/

theorem raise_setResult (s : State) (r : Option Result) (c : Cause) : raise { s with result := r } c = raise s c := by
  cases c <;> rfl

theorem reportExchange_withResult (r : Option Result) (p : State × Except Cause Decoded) :
    reportExchange (withResult r p) = reportExchange p := by
  obtain ⟨s, c | d⟩ := p
  · exact raise_setResult s r c
  · rfl

theorem relocate_setResult (s : State) (r : Option Result) (o : Outcome State Fault Refusal) :
    relocate { s with result := r } o = relocate s o := by
  cases o <;> rfl

/-- Settles O40: a block operation by its dependence on the registers, a command kind action by action. -/
theorem resultIsNeverRead : Obligations.ResultIsNeverRead := by
  intro i s r
  obtain hb | ⟨k, rfl⟩ := isBlockOperation_or_instrOf i
  · have hregs : ({ s with result := r } : State).registers = s.registers := rfl
    calc exec i { s with result := r }
      _ = relocate { s with result := r } (exec i s) := block_relocate hregs hb
      _ = relocate s (exec i s) := relocate_setResult s r _
      _ = exec i s := (block_relocate rfl hb).symm
  · rw [exec_instrOf, exec_instrOf, ignoresResult_exchange k s r, reportExchange_withResult]

end Sys2Proof.Machine
end

section
/-! SUPPORT. The family 20_memory.md: an operation has "all its results and state updates or raises and writes
nothing" (spec/20_memory.md R42, spec/60_exceptions.md R155). -/

namespace Sys2Proof.Machine

open Sys2Proof.Claim

/-- Each of the three writers of registers (R43) writes only on the path that ends `ok`. -/
theorem block_next_of_raise {i : Instr} {s t : State} {c : Cause} (hb : isBlockOperation i = true)
    (h : exec i s = .next t) (hr : t.result = some (.raise c)) : t = { s with result := t.result } := by
  cases i
  case ldaddr =>
    cases h
    cases hr
  case srcmatch =>
    obtain ⟨-, -, rfl⟩ | ⟨-, -, rfl⟩ := srcmatch_next h <;> cases hr
  case parse =>
    obtain ⟨-, ⟨-, rfl⟩ | ⟨_, -, rfl⟩⟩ := parse_next h
    · cases hr
    · rfl
  all_goals exact block_next_of_not_writes hb rfl h

/-- Settles O37: a raise leaves the result alone, and the result is the cause raised. -/
theorem raisingOperationWritesNothing : Obligations.RaisingOperationWritesNothing := by
  intro i s t c hb h hr
  have hkeep := block_next_of_raise hb h hr
  rwa [hr] at hkeep

end Sys2Proof.Machine
end

section
/-! SUPPORT. The family 30_encoding.md, Part A: the wire frame (spec/30_encoding.md R48 to R57). The two codecs of a
frame are inverse to each other, and what COMPOSE builds the receiver's operations take apart and accept. -/

namespace Sys2Proof

/-! ## The parts of an encoded frame (R48) -/

theorem encodeFrame_take_eight (f : Frame) : (encodeFrame f).take 8 = encodeHeader f.header :=
  List.take_left' rfl

theorem encodeFrame_drop_eight (f : Frame) : (encodeFrame f).drop 8 = encodeBody f.body :=
  List.drop_left' rfl

theorem encodeBody_length (b : Body) : (encodeBody b).length = b.data.length + 2 := by
  simp [encodeBody]

theorem encodeFrame_length (f : Frame) : (encodeFrame f).length = f.body.data.length + 10 := by
  simp [encodeFrame, encodeHeader_length, encodeBody_length]
  omega

/-! ## The frame decoder -/

/-- Bytes decode to a frame exactly when its two parts do, the byte count being the one its length byte gives. -/
theorem decodeFrame_eq_some_iff (bytes : Bytes) (f : Frame) : decodeFrame bytes = some f ↔
    decodeHeader (bytes.take 8) = some f.header ∧ (bytes.drop 8).length = f.header.length.toNat + 1 ∧
      f.header.length ≠ 0 ∧ decodeBody (bytes.drop 8) = some f.body := by
  constructor
  · intro h
    unfold decodeFrame at h
    split at h
    · cases h
    · next hheader =>
      split at h
      · next hcount =>
        split at h
        · next hbody =>
          cases h
          exact ⟨hheader, hcount.1, hcount.2, hbody⟩
        · cases h
      · cases h
  · rintro ⟨hheader, hcount, hlength, hbody⟩
    simp only [decodeFrame, hheader, hbody]
    rw [if_pos ⟨hcount, hlength⟩]

/-- The encoder first: the length byte counts the payload, so the byte count is right and the length is not 0. -/
theorem decodeFrame_encodeFrame {f : Frame} (h : f.lengthAgrees = true) : decodeFrame (encodeFrame f) = some f := by
  have hlength := (lengthAgrees_iff f).1 h
  rw [decodeFrame_eq_some_iff, encodeFrame_take_eight, encodeFrame_drop_eight, encodeBody_length]
  refine ⟨decodeHeader_encodeHeader _, by omega, ?_, decodeBody_encodeBody _⟩
  intro hzero
  simp [hzero] at hlength
  omega

theorem encodeFrame_decodeFrame {bytes : Bytes} {f : Frame} (h : decodeFrame bytes = some f) :
    encodeFrame f = bytes := by
  obtain ⟨hheader, -, -, hbody⟩ := (decodeFrame_eq_some_iff bytes f).1 h
  rw [encodeFrame, encodeHeader_decodeHeader hheader, encodeBody_decodeBody hbody, List.take_append_drop]

theorem lengthAgrees_of_decodeFrame {bytes : Bytes} {f : Frame} (h : decodeFrame bytes = some f) :
    f.lengthAgrees = true := by
  obtain ⟨-, hcount, -, hbody⟩ := (decodeFrame_eq_some_iff bytes f).1 h
  rw [← encodeBody_decodeBody hbody, encodeBody_length] at hcount
  rw [lengthAgrees_iff]
  omega

/-- Settles O20: each codec inverts the other on the header and on the body, and the length byte places the cut. -/
theorem frameEncodeDecodeAgree : Obligations.FrameEncodeDecodeAgree := by
  refine ⟨fun f h => decodeFrame_encodeFrame h, fun bytes f h => ?_⟩
  have hagrees := lengthAgrees_of_decodeFrame h
  have hbytes := encodeFrame_decodeFrame h
  refine ⟨hagrees, hbytes, ?_⟩
  rw [← hbytes, encodeFrame_length, (lengthAgrees_iff f).1 hagrees]
  omega

end Sys2Proof

namespace Sys2Proof.Machine

open Sys2Proof.Claim

/-! ## What COMPOSE builds (R93) -/

/-- COMPOSE with short data answers the encoding of the request frame. -/
theorem composeFrame_short {s : State} (hsrc : s.srcSet = true) (hdst : s.dstSet = true) (code : Byte) {data : Bytes}
    (h : data.length ≤ 254) : composeFrame s code data = .ok (encodeFrame (requestFrame s.src s.dst code data)) := by
  have hcount : (payload code data).length = 1 + data.length := Nat.add_comm ..
  rw [composeFrame_set hsrc hdst, if_neg (by omega), hcount]
  simp [encodeFrame, encodeHeader, encodeBody, requestFrame, crcCoverage, payload]

theorem requestFrame_lengthAgrees (src dst : Addr) (code : Byte) {data : Bytes} (h : data.length ≤ 254) :
    (requestFrame src dst code data).lengthAgrees = true := by
  rw [lengthAgrees_iff]
  simp [requestFrame]
  omega

/-! ## The receiver's operations on an encoded frame (R97, R99, R108) -/

theorem exec_hdr_encodeHeader (h : Header) (s : State) : exec (.hdr (encodeHeader h)) s = complete s (.header h) := by
  simp [exec, execHdr, extractHeader_encodeHeader, Except.map]

theorem exec_body_encodeBody {f : Frame} (h : f.lengthAgrees = true) (s : State) :
    exec (.body f.header.length (encodeBody f.body)) s = complete s (.body f.body) := by
  simp [exec, execBody, extractBody_encodeBody h, Except.map]

/-- A request frame passes every check of a block whose destination is the sender or the broadcast sentinel. -/
theorem checkResponse_requestFrame {s : State} (hset : s.dstSet = true) {src : Addr} (dst : Addr) (code : Byte)
    {data : Bytes} (h : data.length ≤ 254) (hdst : s.dst = src ∨ s.dst = Config.broadcast) :
    checkResponse s (requestFrame src dst code data) = .ok () :=
  (checkResponse_ok_iff hset _).2
    ⟨(lengthAgrees_iff _).1 (requestFrame_lengthAgrees src dst code h), rfl, rfl, hdst.symm⟩

/-- Settles O19: COMPOSE answers an encoded request frame, whose parts HDR and BODY decode and whose fields PARSE
accepts. -/
theorem composedFrameIsParsedBack : Obligations.ComposedFrameIsParsedBack := by
  intro code data s hsrc hdst hshort
  have hagrees := requestFrame_lengthAgrees s.src s.dst code hshort
  refine ⟨encodeFrame (requestFrame s.src s.dst code data), ?_, ?_, (requestFrame s.src s.dst code data).header.crc,
    (requestFrame s.src s.dst code data).body.checksum, fun r => ?_, fun r => ?_, fun p hset hp => ?_⟩
  · rw [exec_compose, composeFrame_short hsrc hdst code hshort]
    rfl
  · rw [encodeFrame_length]
    simp only [requestFrame]
    omega
  · rw [encodeFrame_take_eight]
    exact exec_hdr_encodeHeader _ r
  · rw [encodeFrame_drop_eight]
    exact exec_body_encodeBody hagrees r
  · exact exec_parse_ok (checkResponse_requestFrame hset _ _ hshort hp)

end Sys2Proof.Machine
end

section
/-! SUPPORT. The family 30_encoding.md, Part B: the issue of an operation (spec/30_encoding.md R60 to R64,
spec/47_command_catalog.md R118). The decoder and the encoder follow one map, row by row. -/

namespace Sys2Proof

/-! ## The rows of the map (R60, R118) -/

/-- Case analysis on a selector by its row of R60: "a decoder of the selector is total" (R64). -/
theorem selectorCases {motive : BitVec 4 → Prop} (reserved0 : motive 0x0) (crc24 : motive 0x1) (csum : motive 0x2)
    (recon : motive 0x3) (ldaddr : motive 0x4) (rdaddr : motive 0x5) (compose : motive 0x6) (hdr : motive 0x7)
    (body : motive 0x8) (srcmatch : motive 0x9) (parse : motive 0xA) (rdresp : motive 0xB) (reservedC : motive 0xC)
    (reservedD : motive 0xD) (reservedE : motive 0xE) (reservedF : motive 0xF) (selector : BitVec 4) :
    motive selector := by
  have h : selector = 0x0 ∨ selector = 0x1 ∨ selector = 0x2 ∨ selector = 0x3 ∨ selector = 0x4 ∨ selector = 0x5 ∨
      selector = 0x6 ∨ selector = 0x7 ∨ selector = 0x8 ∨ selector = 0x9 ∨ selector = 0xA ∨ selector = 0xB ∨
      selector = 0xC ∨ selector = 0xD ∨ selector = 0xE ∨ selector = 0xF := by
    decide +revert
  rcases h with rfl | rfl | rfl | rfl | rfl | rfl | rfl | rfl | rfl | rfl | rfl | rfl | rfl | rfl | rfl | rfl <;>
    assumption

/-- Case analysis on a command code by the catalog (R118): five codes, and the codes it does not list. -/
theorem codeCases {motive : Byte → Prop} (getNetworkId : motive 0x86) (getConfig : motive 0x80)
    (setConfig : motive 0x00) (getLastPacket : motive 0x82) (getHistory : motive 0x85)
    (unlisted : ∀ code, argumentTypes code = none → motive code) (code : Byte) : motive code := by
  have h : code = 0x86 ∨ code = 0x80 ∨ code = 0x00 ∨ code = 0x82 ∨ code = 0x85 ∨ argumentTypes code = none := by
    decide +revert
  obtain rfl | rfl | rfl | rfl | rfl | h := h
  · exact getNetworkId
  · exact getConfig
  · exact setConfig
  · exact getLastPacket
  · exact getHistory
  · exact unlisted code h

/-! ## Operands of a type (R61) -/

@[simp] theorem operandType_eq_u8 {o : Operand} : o.type = .u8 ↔ ∃ v, o = .u8 v := by
  cases o <;> simp [Operand.type]

@[simp] theorem operandType_eq_u16 {o : Operand} : o.type = .u16 ↔ ∃ v, o = .u16 v := by
  cases o <;> simp [Operand.type]

@[simp] theorem operandType_eq_u24 {o : Operand} : o.type = .u24 ↔ ∃ v, o = .u24 v := by
  cases o <;> simp [Operand.type]

@[simp] theorem operandType_eq_bytes {o : Operand} : o.type = .bytes ↔ ∃ s, o = .bytes s := by
  cases o <;> simp [Operand.type]

@[simp] theorem operandType_eq_config {o : Operand} : o.type = .config ↔ ∃ c, o = .config c := by
  cases o <;> simp [Operand.type]

/-! ## The decoder inverts the encoder -/

theorem decode_encode (i : Instr) : decode (encode i) = .ok i := by
  cases i <;> rfl

/-- A reserved selector is one reserved instruction, whatever operands stand beside it (R62; log 14). -/
theorem decode_reserved {selector : BitVec 4} (h : operandTypes selector = none) :
    ∃ i, encode i = .op selector [] ∧ (∀ operands, decode (.op selector operands) = .ok i) ∧
      ∀ s, Machine.exec i s = Machine.raise s (.illegalOperation selector) := by
  cases selector using selectorCases
  case reserved0 => exact ⟨.reserved0, rfl, fun _ => rfl, fun _ => rfl⟩
  case reservedC => exact ⟨.reservedC, rfl, fun _ => rfl, fun _ => rfl⟩
  case reservedD => exact ⟨.reservedD, rfl, fun _ => rfl, fun _ => rfl⟩
  case reservedE => exact ⟨.reservedE, rfl, fun _ => rfl, fun _ => rfl⟩
  case reservedF => exact ⟨.reservedF, rfl, fun _ => rfl, fun _ => rfl⟩
  all_goals cases h

/-- An issue of a row with operands decodes to the instruction it encodes. -/
theorem encode_of_decodeOp {selector : BitVec 4} {operands : List Operand} {types : List OperandType} {i : Instr}
    (ht : operandTypes selector = some types) (h : decode (.op selector operands) = .ok i) :
    encode i = .op selector operands := by
  cases selector using selectorCases
  case reserved0 | reservedC | reservedD | reservedE | reservedF => cases ht
  all_goals
    simp only [decode, decodeOp, BitVec.reduceToNat] at h
    split at h
    · cases h
      rfl
    · cases h

/-- A code the catalog does not list is rejected by name (log 15). -/
theorem decodeCall_unlisted {code : Byte} (h : argumentTypes code = none) (arguments : List Operand) :
    decode (.call code arguments) = .error (.unknownCommand code) := by
  unfold argumentTypes at h
  split at h
  case h_6 => simp [decode, decodeCall, *]
  all_goals cases h

/-- A call decodes to the instruction it encodes. -/
theorem encode_of_decodeCall {code : Byte} {arguments : List Operand} {i : Instr}
    (h : decode (.call code arguments) = .ok i) : encode i = .call code arguments := by
  cases code using codeCases
  case unlisted hcode => cases (decodeCall_unlisted hcode arguments).symm.trans h
  all_goals
    simp only [decode, decodeCall, BitVec.reduceToNat] at h
    split at h
    · cases h
      rfl
    · cases h

/-! ## Well-formed issues are the encoder's (R60, R118) -/

theorem encode_wellFormed (i : Instr) : (encode i).wellFormed = true := by
  cases i <;> rfl

/-- Operands of the types of a selector's row are the operands of one of its instructions. -/
theorem exists_encode_eq_op {selector : BitVec 4} {operands : List Operand} {types : List OperandType}
    (ht : operandTypes selector = some types) (ho : operands.map Operand.type = types) :
    ∃ i, encode i = .op selector operands := by
  cases selector using selectorCases
  case reserved0 | reservedC | reservedD | reservedE | reservedF => cases ht
  all_goals
    cases ht
    -- the types fix the operands up to their values: `∃ v …, operands = [.u8 v, …]`
    simp [List.map_eq_cons_iff] at ho
  case crc24 => obtain ⟨s, rfl⟩ := ho; exact ⟨.crc24 s, rfl⟩
  case csum => obtain ⟨s, rfl⟩ := ho; exact ⟨.csum s, rfl⟩
  case recon => obtain ⟨base, inc, check, rfl⟩ := ho; exact ⟨.recon base inc check, rfl⟩
  case ldaddr => obtain ⟨src, dst, rfl⟩ := ho; exact ⟨.ldaddr src dst, rfl⟩
  case rdaddr => subst ho; exact ⟨.rdaddr, rfl⟩
  case compose => obtain ⟨code, data, rfl⟩ := ho; exact ⟨.compose code data, rfl⟩
  case hdr => obtain ⟨h, rfl⟩ := ho; exact ⟨.hdr h, rfl⟩
  case body => obtain ⟨length, b, rfl⟩ := ho; exact ⟨.body length b, rfl⟩
  case srcmatch => obtain ⟨src, rfl⟩ := ho; exact ⟨.srcmatch src, rfl⟩
  case parse =>
    obtain ⟨crc, src, dst, length, code, data, sum, rfl⟩ := ho
    exact ⟨.parse crc src dst length code data sum, rfl⟩
  case rdresp => subst ho; exact ⟨.rdresp, rfl⟩

/-- Arguments of the types of a listed code are the arguments of its command kind. -/
theorem exists_encode_eq_call {code : Byte} {arguments : List Operand} {types : List OperandType}
    (ht : argumentTypes code = some types) (ho : arguments.map Operand.type = types) :
    ∃ i, encode i = .call code arguments := by
  cases code using codeCases
  case unlisted hcode => rw [hcode] at ht; cases ht
  all_goals
    cases ht
    simp [List.map_eq_cons_iff] at ho
  case getNetworkId => subst ho; exact ⟨.getNetworkId, rfl⟩
  case getConfig => subst ho; exact ⟨.getConfig, rfl⟩
  case setConfig => obtain ⟨c, rfl⟩ := ho; exact ⟨.setConfig c, rfl⟩
  case getLastPacket => obtain ⟨counterId, rfl⟩ := ho; exact ⟨.getLastPacket counterId, rfl⟩
  case getHistory => obtain ⟨counterId, rfl⟩ := ho; exact ⟨.getHistory counterId, rfl⟩

/-- An issue that decodes is its instruction's encoding, or stands at a reserved selector. -/
theorem encode_of_decode {issue : Issue} {i : Instr} (h : decode issue = .ok i) : encode i = issue ∨
    ∃ selector operands, issue = .op selector operands ∧ operandTypes selector = none ∧ encode i = .op selector [] := by
  cases issue with
  | op selector operands =>
    cases ht : operandTypes selector with
    | none =>
      obtain ⟨j, hencode, hdecode, -⟩ := decode_reserved ht
      cases (hdecode operands).symm.trans h
      exact .inr ⟨selector, operands, rfl, ht, hencode⟩
    | some types => exact .inl (encode_of_decodeOp ht h)
  | call code arguments => exact .inl (encode_of_decodeCall h)

/-- A well-formed issue is an instruction's encoding, or stands at a reserved selector. -/
theorem exists_decode_of_wellFormed {issue : Issue} (h : issue.wellFormed = true) : ∃ i, decode issue = .ok i := by
  cases issue with
  | op selector operands =>
    cases ht : operandTypes selector with
    | none =>
      obtain ⟨i, -, hdecode, -⟩ := decode_reserved ht
      exact ⟨i, hdecode operands⟩
    | some types =>
      obtain ⟨i, hi⟩ := exists_encode_eq_op ht (by simpa [Issue.wellFormed, ht] using h)
      exact ⟨i, hi ▸ decode_encode i⟩
  | call code arguments =>
    cases ht : argumentTypes code with
    | none => simp [Issue.wellFormed, ht] at h
    | some types =>
      obtain ⟨i, hi⟩ := exists_encode_eq_call ht (by simpa [Issue.wellFormed, ht] using h)
      exact ⟨i, hi ▸ decode_encode i⟩

theorem wellFormed_of_decode {issue : Issue} {i : Instr} (h : decode issue = .ok i) : issue.wellFormed = true := by
  obtain hissue | ⟨selector, operands, rfl, hreserved, -⟩ := encode_of_decode h
  · rw [← hissue]
    exact encode_wellFormed i
  · simp [Issue.wellFormed, hreserved]

/-- Settles O21, row by row of the map. -/
theorem issueEncodeDecodeAgree : Obligations.IssueEncodeDecodeAgree :=
  ⟨decode_encode, fun _ _ h => encode_of_decode h⟩

/-- Settles O22: both sides say that the issue is an encoding or stands at a reserved selector. -/
theorem decodesExactlyWellFormedIssues : Obligations.DecodesExactlyWellFormedIssues :=
  fun _ => ⟨exists_decode_of_wellFormed, fun ⟨_, h⟩ => wellFormed_of_decode h⟩

/-! ## Selectors (R62, R64) -/

/-- The zero operands of a selector's row make a well-formed issue. -/
theorem wellFormed_zeroOperands (selector : BitVec 4) :
    (Issue.op selector (((operandTypes selector).getD []).map OperandType.zero)).wellFormed = true := by
  have htype : Operand.type ∘ OperandType.zero = id := funext fun t => by cases t <;> rfl
  cases ht : operandTypes selector <;> simp [Issue.wellFormed, ht, htype]

/-- An instruction decoded from a selector is encoded at that selector. -/
theorem encode_eq_op_of_decode {selector : BitVec 4} {operands : List Operand} {i : Instr}
    (h : decode (.op selector operands) = .ok i) : ∃ written, encode i = .op selector written := by
  obtain hencode | ⟨_, _, hissue, -, hencode⟩ := encode_of_decode h
  · exact ⟨operands, hencode⟩
  · cases hissue
    exact ⟨[], hencode⟩

theorem isBlockOperation_of_encode {i : Instr} {selector : BitVec 4} {operands : List Operand}
    (h : encode i = .op selector operands) : Machine.isBlockOperation i = true := by
  cases i
  case getNetworkId | getConfig | setConfig | getLastPacket | getHistory => cases h
  all_goals rfl

/-- Settles O23: the zero operands of a selector's row decode, to an instruction of that selector. -/
theorem selectorMapIsTotal : Obligations.SelectorMapIsTotal := by
  refine ⟨fun selector => ?_, fun _ _ _ h => encode_eq_op_of_decode h⟩
  obtain ⟨i, hi⟩ := exists_decode_of_wellFormed (wellFormed_zeroOperands selector)
  obtain ⟨_, hencode⟩ := encode_eq_op_of_decode hi
  exact ⟨_, i, hi, isBlockOperation_of_encode hencode⟩

/-- Settles O24: each word is the encoding of its instruction. -/
theorem tableWordsDecode : Obligations.TableWordsDecode :=
  ⟨decode_encode (.crc24 _), decode_encode (.recon _ _ _), decode_encode (.compose _ _),
    decode_encode (.parse _ _ _ _ _ _ _), decode_encode .reservedC, decode_encode .getNetworkId,
    decode_encode (.getHistory _)⟩

end Sys2Proof

namespace Sys2Proof.Machine

/-! ## Steps (R62, 20_memory.md R45, 60_exceptions.md R158) -/

theorem operandTypes_reserved {selector : BitVec 4} (h : selector ∈ [0x0#4, 0xC#4, 0xD#4, 0xE#4, 0xF#4]) :
    operandTypes selector = none := by
  decide +revert

/-- Settles O25: a reserved selector decodes with any operands, to an instruction that raises it. -/
theorem reservedSelectorRaisesIllegal : Obligations.ReservedSelectorRaisesIllegal := by
  intro selector operands rest s h
  obtain ⟨i, -, hdecode, hexec⟩ := decode_reserved (operandTypes_reserved h)
  rw [step_ok rfl (hdecode operands), hexec]
  rfl

/-- Settles O26: the meaning of a reserved instruction is the raise of its selector. -/
theorem reservedInstructionsRaise : Obligations.ReservedInstructionsRaise :=
  fun _ => ⟨rfl, rfl, rfl, rfl, rfl⟩

/-- Settles O36, by the three cases of the queue's oldest issue. -/
theorem stepRunsDecodedInstruction : Obligations.StepRunsDecodedInstruction :=
  ⟨fun _ _ _ _ => step_ok, fun _ => step_idle, fun _ _ _ _ => step_error⟩

end Sys2Proof.Machine
end

section
/-! SUPPORT. The family 40_checksum_primitives.md: the CRC-24 and the byte sum (spec/40_checksum_primitives.md R70 to
R80). The loop of R70 is tied once to the 24-bit register of R72, and what is said of CRCs is then proved of the
register. -/

namespace Sys2Proof.Machine

open Sys2Proof.Claim

/-! ## The loop of R70 on the 24-bit register (R72) -/

/-- Bit 24 after the shift is the register's most significant bit before it. -/
theorem crcShift_carry (r : BitVec 24) : r.toNat <<< 1 &&& Config.crcTop ≠ 0 ↔ r.msb = true := by
  rw [show Config.crcTop = 2 ^ 24 from rfl, Nat.and_two_pow]
  simp [BitVec.msb_eq_getLsbD_last, BitVec.getLsbD]

/-- Clearing the carry-out of a shift leaves the shifted register. -/
theorem shiftLeft_one_xor_carry {r : BitVec 24} (h : r.msb = true) :
    r.toNat <<< 1 ^^^ 2 ^ 24 = (r <<< 1).toNat := by
  refine Nat.eq_of_testBit_eq fun i => ?_
  rw [BitVec.testBit_toNat, BitVec.getLsbD_shiftLeft, Nat.testBit_xor, Nat.testBit_shiftLeft, BitVec.testBit_toNat,
    Nat.testBit_two_pow]
  obtain hi | rfl | hi := lt_trichotomy i 24
  · simp [hi, hi.ne', Nat.one_le_iff_ne_zero]
  · simpa [BitVec.msb_eq_getLsbD_last] using h
  · simp [BitVec.getLsbD_of_ge r (i - 1) (by omega)]; omega

/-- The polynomial has bit 24 set, so its exclusive-or clears the carry-out. -/
theorem crcShift_toNat (r : BitVec 24) : crcShift r.toNat = (registerShift r).toNat := by
  unfold crcShift registerShift
  simp only [crcShift_carry]
  cases hm : r.msb with
  | false =>
    have := BitVec.msb_eq_false_iff_two_mul_lt.1 hm
    simp [Nat.shiftLeft_eq]
    omega
  | true =>
    have hpoly : Config.crcPoly = 2 ^ 24 ^^^ 0x864CFB := rfl
    simp only [if_true, hpoly]
    rw [← Nat.xor_assoc, shiftLeft_one_xor_carry hm, BitVec.toNat_xor]
    rfl

theorem crcShifts_toNat (n : Nat) (r : BitVec 24) : crcShifts n r.toNat = (registerShift^[n] r).toNat := by
  induction n generalizing r with
  | zero => rfl
  | succ n ih => rw [crcShifts, crcShift_toNat, ih, Function.iterate_succ_apply]

theorem registerByte_eq_iterate (r : BitVec 24) (b : Byte) :
    registerByte r b = registerShift^[8] (r ^^^ (b.setWidth 24 <<< 16)) := rfl

theorem byte_shiftLeft_toNat (b : Byte) : (b.setWidth 24 <<< 16).toNat = b.toNat <<< 16 := by
  have := b.isLt
  simp [Nat.shiftLeft_eq]
  omega

/-- The mask of R70 does not change a register's value. -/
theorem toNat_and_mask (r : BitVec 24) : r.toNat &&& 0xFFFFFF = r.toNat :=
  Nat.and_two_pow_sub_one_of_lt_two_pow r.isLt

theorem crcByte_toNat (r : BitVec 24) (b : Byte) : crcByte r.toNat b = (registerByte r b).toNat := by
  rw [crcByte, ← byte_shiftLeft_toNat, ← BitVec.toNat_xor, crcShifts_toNat, toNat_and_mask, registerByte_eq_iterate]

theorem crcFrom_toNat (r : BitVec 24) (bs : Bytes) : crcFrom r.toNat bs = (bs.foldl registerByte r).toNat := by
  induction bs generalizing r with
  | nil => rfl
  | cons b bs ih => rw [crcFrom, crcByte_toNat, ih, List.foldl_cons]

theorem crc24_eq_foldl (bs : Bytes) : crc24 bs = bs.foldl registerByte 0xB704CE#24 := by
  have hfrom : crcFrom Config.crcInit bs = _ := crcFrom_toNat 0xB704CE#24 bs
  rw [crc24, hfrom, toNat_and_mask, BitVec.ofNat_toNat, BitVec.setWidth_eq]

/-- Settles O2: a number below `2 ^ 24` is a register, and a shift or a byte leaves a register. -/
theorem crcIsTwentyFourBitRegister : Obligations.CrcIsTwentyFourBitRegister := by
  refine ⟨crc24_eq_foldl, fun c hc => ?_, fun c bs hc => ?_⟩
  · exact crcShift_toNat (BitVec.ofNatLT c hc) ▸ BitVec.isLt _
  · exact crcFrom_toNat (BitVec.ofNatLT c hc) bs ▸ BitVec.isLt _

/-! ## Words as polynomials over GF(2) -/

theorem polyOf_coeff {w : Nat} (v : BitVec w) (i : Nat) : (polyOf v).coeff i = if v.getLsbD i then 1 else 0 := by
  have hterm (j : Nat) : (if v.getLsbD j then Polynomial.X ^ j else 0 : Polynomial (ZMod 2)).coeff i =
      if i = j then (if v.getLsbD j then 1 else 0) else 0 := by
    split <;> simp [Polynomial.coeff_X_pow]
  simp only [polyOf, Polynomial.finsetSum_coeff, hterm, Finset.sum_ite_eq, Finset.mem_range]
  split
  · rfl
  · simp [BitVec.getLsbD_of_ge v i (by omega)]

theorem polyOf_degree_lt {w : Nat} (v : BitVec w) : (polyOf v).degree < w :=
  (Polynomial.degree_lt_iff_coeff_zero _ _).2 fun i hi => by simp [polyOf_coeff, BitVec.getLsbD_of_ge v i hi]

/-- Exclusive-or is addition over GF(2). -/
theorem polyOf_xor {w : Nat} (u v : BitVec w) : polyOf (u ^^^ v) = polyOf u + polyOf v := by
  ext i
  rw [Polynomial.coeff_add, polyOf_coeff, polyOf_coeff, polyOf_coeff, BitVec.getLsbD_xor]
  cases u.getLsbD i <;> cases v.getLsbD i <;> decide

/-- A shift by one multiplies by `X`, but for the carry-out. -/
theorem polyOf_shiftLeft_one {w : Nat} (v : BitVec w) :
    polyOf (v <<< 1) + (if v.msb then Polynomial.X ^ w else 0) = polyOf v * Polynomial.X := by
  have hcarry (i : Nat) : (if v.msb then Polynomial.X ^ w else 0 : Polynomial (ZMod 2)).coeff i =
      if v.msb ∧ i = w then 1 else 0 := by
    split <;> simp [*, Polynomial.coeff_X_pow]
  ext i
  rw [Polynomial.coeff_add, hcarry]
  cases i with
  | zero => cases w <;> simp [polyOf_coeff, BitVec.of_length_zero]
  | succ i =>
    rw [Polynomial.coeff_mul_X, polyOf_coeff, polyOf_coeff, BitVec.getLsbD_shiftLeft, BitVec.msb_eq_getLsbD_last]
    obtain hi | rfl | hi := lt_trichotomy (i + 1) w
    · simp [hi, hi.ne]
    · simp
    · simp [hi.not_gt, hi.ne', BitVec.getLsbD_of_ge v i (by omega)]

/-- A byte in bits 23:16 of the register loses no bit. -/
theorem polyOf_byte_shiftLeft (b : Byte) : polyOf (b.setWidth 24 <<< 16) = polyOf b * Polynomial.X ^ 16 := by
  ext i
  rw [Polynomial.coeff_mul_X_pow', polyOf_coeff, polyOf_coeff, BitVec.getLsbD_shiftLeft, BitVec.getLsbD_setWidth]
  by_cases hi : i < 24
  · simp [hi, show i - 16 < 24 by omega, ite_and]
  · simp [hi, BitVec.getLsbD_of_ge b (i - 16) (by omega)]

/-- Below bit 24 the generator has the bits of the constant the register exclusive-ors in. -/
theorem generator_eq : generator = Polynomial.X ^ 24 + polyOf 0x864CFB#24 := by
  simp [generator, polyOf, Finset.sum_range_succ]
  ring

theorem generator_degree : generator.degree = (24 : Nat) := by
  unfold generator
  compute_degree!

theorem generator_monic : generator.Monic := by
  unfold generator
  monicity!

/-! ## The CRC as a remainder (R74)

Residues modulo the generator are elements of `AdjoinRoot generator`. -/

/-- A shift multiplies the residue by `X`: the carry-out `X ^ 24` is the exclusive-ored constant modulo the
generator. -/
theorem mk_polyOf_registerShift (r : BitVec 24) :
    AdjoinRoot.mk generator (polyOf (registerShift r)) = AdjoinRoot.mk generator (polyOf r * Polynomial.X) := by
  rw [← polyOf_shiftLeft_one, registerShift]
  split
  · have hcarry : AdjoinRoot.mk generator (Polynomial.X ^ 24) = AdjoinRoot.mk generator (polyOf 0x864CFB#24) := by
      rw [AdjoinRoot.mk_eq_mk, CharTwo.sub_eq_add, ← generator_eq]
    rw [polyOf_xor, map_add, map_add, hcarry]
  · rw [add_zero]

theorem mk_polyOf_iterate_registerShift (n : Nat) (r : BitVec 24) :
    AdjoinRoot.mk generator (polyOf (registerShift^[n] r)) =
      AdjoinRoot.mk generator (polyOf r * Polynomial.X ^ n) := by
  induction n generalizing r with
  | zero => simp
  | succ n ih =>
    rw [Function.iterate_succ_apply, ih, map_mul, mk_polyOf_registerShift, ← map_mul, pow_succ', mul_assoc]

theorem mk_polyOf_registerByte (r : BitVec 24) (b : Byte) :
    AdjoinRoot.mk generator (polyOf (registerByte r b)) =
      AdjoinRoot.mk generator (polyOf r * Polynomial.X ^ 8 + polyOf b * Polynomial.X ^ 24) := by
  rw [registerByte_eq_iterate, mk_polyOf_iterate_registerShift, polyOf_xor, polyOf_byte_shiftLeft]
  ring_nf

theorem mk_polyOf_foldl_registerByte (r : BitVec 24) (bs : Bytes) :
    AdjoinRoot.mk generator (polyOf (bs.foldl registerByte r)) =
      AdjoinRoot.mk generator (polyOf r * Polynomial.X ^ (8 * bs.length) + messagePoly bs * Polynomial.X ^ 24) := by
  induction bs generalizing r with
  | nil => simp [messagePoly]
  | cons b bs ih =>
    rw [List.foldl_cons, ih, map_add, map_mul, mk_polyOf_registerByte, ← map_mul, ← map_add, messagePoly,
      List.length_cons]
    ring_nf

/-- Settles O3: the two sides have the same residue, and the CRC's degree is below the generator's. -/
theorem crcIsPolynomialRemainder : Obligations.CrcIsPolynomialRemainder := by
  intro bs
  have hresidue := AdjoinRoot.mk_eq_mk.1 (mk_polyOf_foldl_registerByte 0xB704CE#24 bs)
  rw [← crc24_eq_foldl] at hresidue
  have hdegree : (polyOf (crc24 bs)).degree < generator.degree := by
    rw [generator_degree]
    exact polyOf_degree_lt (crc24 bs)
  calc polyOf (crc24 bs)
    _ = polyOf (crc24 bs) %ₘ generator := ((Polynomial.modByMonic_eq_self_iff generator_monic).2 hdegree).symm
    _ = _ := Polynomial.modByMonic_eq_of_dvd_sub generator_monic hresidue

/-! ## One corrupted byte -/

/-- The polynomial's constant term is 1, so the least significant bit after a shift tells the carry-out. -/
theorem registerShift_lsb (r : BitVec 24) : (registerShift r).getLsbD 0 = r.msb := by
  unfold registerShift
  split <;> simp [*]

theorem registerShift_injective : Function.Injective registerShift := by
  intro r r' h
  have hmsb : r.msb = r'.msb := by rw [← registerShift_lsb, h, registerShift_lsb]
  have hshift : r <<< 1 = r' <<< 1 := by
    unfold registerShift at h
    rw [← hmsb] at h
    split at h
    · exact (BitVec.xor_left_inj _).1 h
    · exact h
  simp only [BitVec.msb_eq_decide, decide_eq_decide] at hmsb
  bv_omega

theorem registerByte_injective_register (b : Byte) : Function.Injective (registerByte · b) := fun _ _ h =>
  (BitVec.xor_left_inj _).1 (registerShift_injective.iterate 8 h)

theorem registerByte_injective_byte (r : BitVec 24) : Function.Injective (registerByte r) := by
  intro b b' h
  have hword := (BitVec.xor_right_inj _).1 (registerShift_injective.iterate 8 h)
  have hnat := congrArg BitVec.toNat hword
  rw [byte_shiftLeft_toNat, byte_shiftLeft_toNat, Nat.shiftLeft_eq, Nat.shiftLeft_eq] at hnat
  exact BitVec.eq_of_toNat_eq (Nat.eq_of_mul_eq_mul_right (by decide) hnat)

theorem foldl_registerByte_injective (bs : Bytes) : Function.Injective (bs.foldl registerByte) := by
  induction bs with
  | nil => exact Function.injective_id
  | cons b bs ih => exact ih.comp (registerByte_injective_register b)

/-- Settles O5: the differing byte makes two registers, which the bytes after it keep apart. -/
theorem oneCorruptedByteChangesCrc : Obligations.OneCorruptedByteChangesCrc := by
  intro before after a b hne h
  simp only [crc24_eq_foldl, List.foldl_append, List.foldl_cons] at h
  exact hne (registerByte_injective_byte _ (foldl_registerByte_injective after h))

/-! ## Composition (R80) -/

theorem checksum_toNat (s : Bytes) : ((checksum s).toNat : Int) = ((s.map (·.toNat)).sum - 1 : Int) % 256 := by
  rw [checksum, byteSum_eq, BitVec.toNat_ofInt]
  exact Int.toNat_of_nonneg (Int.emod_nonneg _ (by decide))

theorem checksum_append (s t : Bytes) :
    checksum (s ++ t) = BitVec.ofNat 8 ((checksum s).toNat + (t.map (·.toNat)).sum) := by
  have hs := checksum_toNat s
  have hst := checksum_toNat (s ++ t)
  rw [List.map_append, List.sum_append] at hst
  apply BitVec.eq_of_toNat_eq
  rw [BitVec.toNat_ofNat]
  omega

theorem crc24_append (s t : Bytes) : crc24 (s ++ t) = BitVec.ofNat 24 (crcFrom (crc24 s).toNat t) := by
  rw [crcFrom_toNat, BitVec.ofNat_toNat, BitVec.setWidth_eq, crc24_eq_foldl, crc24_eq_foldl, List.foldl_append]

/-- Settles O4: the bias is subtracted once, and the register after `s` is the CRC of `s`. -/
theorem checksumsComposeOverConcatenation : Obligations.ChecksumsComposeOverConcatenation :=
  fun s t => ⟨checksum_append s t, crc24_append s t⟩

/-! ## The operations (R73, R76) -/

/-- Settles O6: the checksum is the residue of the biased sum. -/
theorem csumReturnsBiasedByteSum : Obligations.CsumReturnsBiasedByteSum :=
  ⟨fun bs _ => ⟨rfl, checksum bs, checksum_toNat bs, rfl⟩, by decide⟩

/-- The rule's example, the header of a request from `0x0001` to `0x2FFF`. -/
theorem crc24_requestHeader : crc24 [0x01, 0x00, 0xFF, 0x2F, 0x01] = 0x7E40CA#24 := by
  decide +kernel

/-- Settles O1: the result is the CRC beside its three bytes, low byte first. -/
theorem crc24ReturnsValueAndWireForm : Obligations.Crc24ReturnsValueAndWireForm :=
  ⟨fun _ _ => ⟨rfl, rfl⟩, ⟨crc24_eq_foldl [], by decide⟩, crc24_requestHeader, by decide⟩

end Sys2Proof.Machine
end

section
/-! SUPPORT. The family 41_value_reconstruction.md: the one check byte that a table entry accepts, and the value
returned (spec/41_value_reconstruction.md R82 to R85). Both obligations follow from the comparison with the entry's
high byte, `reconstruct_eq`. -/

namespace Sys2Proof.Machine

/-- The table entry is `check * 256 + inc` (R82) exactly when its high byte is the check byte. -/
theorem romRead_toNat_eq_iff (t : Vector Byte 256) (inc check : Byte) :
    (romRead t inc).toNat = check.toNat * 256 + inc.toNat ↔ check = t[inc.toFin] := by
  rw [romRead_toNat, ← BitVec.toNat_inj]
  omega

theorem reconstruct_isSome (t : Vector Byte 256) (base : BitVec 16) (inc check : Byte) :
    (reconstruct t base inc check).isSome = decide (check = t[inc.toFin]) := by
  rw [reconstruct_eq]
  split
  case isTrue h => exact (decide_eq_true h).symm
  case isFalse h => exact (decide_eq_false h).symm

/-- R85: the sum of a 16-bit base and an 8-bit increment fits the 32-bit result. -/
theorem toNat_of_reconstruct {t : Vector Byte 256} {base : BitVec 16} {inc check : Byte} {v : BitVec 32}
    (h : reconstruct t base inc check = some v) : v.toNat = base.toNat + inc.toNat := by
  rw [reconstruct_eq] at h
  obtain ⟨-, ⟨⟩⟩ := Option.ite_none_right_eq_some.1 h
  rw [BitVec.toNat_ofNat]
  exact Nat.mod_eq_of_lt (by omega)

theorem exec_recon (base : BitVec 16) (inc check : Byte) (s : State) :
    exec (.recon base inc check) s = complete s (.recon (reconstruct s.rtableHi base inc check)) := rfl

/-- Settles O7: the table code is compared by its high byte, which decides the reconstruction. -/
theorem reconAcceptsTableCode : Obligations.ReconAcceptsTableCode := by
  intro base inc check s
  rw [exec_recon, reconstruct_eq, ne_eq, romRead_toNat_eq_iff]
  refine ⟨rfl, fun h => ?_, fun h => ?_⟩
  · rw [if_pos h]; rfl
  · rw [if_neg h]; rfl

/-- Settles O8: the one accepted check byte is the entry's high byte, which no base enters. -/
theorem reconAcceptsOneCheckByte : Obligations.ReconAcceptsOneCheckByte := by
  intro t inc
  refine ⟨?_, fun _ _ _ => ?_, fun _ _ _ => toNat_of_reconstruct⟩
  · simp only [reconstruct_isSome, decide_eq_true_eq, forall_const]
    exact existsUnique_eq
  · rw [reconstruct_isSome, reconstruct_isSome]

end Sys2Proof.Machine
end

section
/-! SUPPORT. The family 42_frame_composer.md: the two address operations and COMPOSE (spec/42_frame_composer.md R89 to
R95). COMPOSE is the report of `composeFrame`, so each of its obligations is a fact about that function. -/

namespace Sys2Proof.Machine

open Sys2Proof.Claim

/-! ## The address registers (R89, R90) -/

theorem exec_ldaddr (src dst : Addr) (s : State) :
    exec (.ldaddr src dst) s = complete (loadAddresses s src dst) .unit := rfl

/-- Settles O11: loading the addresses is the whole of LDADDR. -/
theorem ldaddrLoadsFreshCommand : Obligations.LdaddrLoadsFreshCommand :=
  fun src dst s => ⟨rfl, exec_ldaddr src dst s⟩

/-- The model's guard of a read of both registers, as a disjunction. -/
theorem eitherUnset_iff (s : State) : (!s.srcSet || !s.dstSet) = true ↔ s.srcSet = false ∨ s.dstSet = false := by
  rw [Bool.or_eq_true, Bool.not_eq_true', Bool.not_eq_true']

/-- Settles O12: the guarded read gives both registers, and an unset one faults. -/
theorem rdaddrReturnsAddresses : Obligations.RdaddrReturnsAddresses :=
  fun s => ⟨rfl, exec_rdaddr_set, fun h => fault_of_readsUnset (i := .rdaddr) ((eitherUnset_iff s).2 h)⟩

/-! ## COMPOSE (R91 to R95) -/

/-- The bytes of a request frame in wire order (R91, R92). -/
theorem encodeFrame_requestFrame (src dst : Addr) (code : Byte) (data : Bytes) :
    encodeFrame (requestFrame src dst code data) =
      le24 (crc24 (le16 src ++ le16 dst ++ [BitVec.ofNat 8 (1 + data.length)])) ++
        (le16 src ++ le16 dst ++ [BitVec.ofNat 8 (1 + data.length)]) ++ (code :: data) ++
        [checksum (code :: data)] :=
  (List.append_assoc _ (code :: data) _).symm

/-- Settles O16: COMPOSE with short data answers the encoded request frame, whose bytes are those of the rule. -/
theorem composeBuildsRequestFrame : Obligations.ComposeBuildsRequestFrame := by
  intro code data s hsrc hdst hshort
  rw [exec_compose, composeFrame_short hsrc hdst code hshort, encodeFrame_requestFrame]
  rfl

theorem composeFrame_long {s : State} (hsrc : s.srcSet = true) (hdst : s.dstSet = true) (code : Byte) {data : Bytes}
    (h : 254 < data.length) : composeFrame s code data = .error (.payloadTooLong data.length) := by
  rw [composeFrame_set hsrc hdst, if_pos h]

/-- Settles O17: the length is checked behind the guarded read, which faults first. -/
theorem composeRefusesLongPayload : Obligations.ComposeRefusesLongPayload := by
  intro code data s
  refine ⟨fun hsrc hdst hlong => ?_, fun hunset => ?_⟩
  · rw [exec_compose, composeFrame_long hsrc hdst code hlong]
    rfl
  · exact fault_of_readsUnset (i := .compose code data) ((eitherUnset_iff s).2 hunset)

/-- A report that answers a next state answers the same result out of every state. -/
theorem report_next_of_report {s t : State} {r : Except Cause Output} (h : report s r = .next t) (s' : State) :
    report s' r = .next { s' with result := t.result } := by
  cases r with
  | ok o => cases h; rfl
  | error c =>
    cases c
    case addressUnset w => cases h
    all_goals cases h; rfl

/-- Settles O18: both states make the same guarded read, so COMPOSE reports the same answer out of each. -/
theorem composeDependsOnAddressesOnly : Obligations.ComposeDependsOnAddressesOnly := by
  intro code data s s' t hsrc hsrcSet hdst hdstSet h
  have hread : readAddresses s' = readAddresses s :=
    readAddresses_congr hsrcSet hdstSet (fun _ => hsrc) fun _ => hdst
  rw [exec_compose] at h
  refine ⟨report_eq_next h, ?_⟩
  rw [exec_compose, composeFrame_congr hread]
  exact report_next_of_report h s'

end Sys2Proof.Machine
end

section
/-! SUPPORT. The family 43_frame_parser.md: the receiver's operations HDR, BODY, SRCMATCH, PARSE and RDRESP
(spec/43_frame_parser.md R97 to R115). HDR and BODY are the reports of the two extractors; the equation of PARSE, check
by check, is O31, from which the catching of a corrupted header byte follows. -/

namespace Sys2Proof.Machine

open Sys2Proof.Claim

/-! ## The extractors (R97 to R99) -/

theorem exec_hdr (h : Bytes) (s : State) : exec (.hdr h) s = report s ((extractHeader h).map .header) := rfl

theorem exec_body (length : Byte) (b : Bytes) (s : State) :
    exec (.body length b) s = report s ((extractBody length b).map .body) := rfl

theorem extractHeader_wrong_count {h : Bytes} (hnonempty : h.length ≠ 0) (hcount : h.length ≠ 8) :
    extractHeader h = .error (.framingError (.exactly 8) h.length) := by
  have hnone : decodeHeader h = none :=
    Option.eq_none_iff_forall_ne_some.2 fun _ hd => hcount (decodeHeader_length hd)
  rw [extractHeader, if_neg hnonempty, hnone]
  rfl

theorem extractBody_wrong_count {length : Byte} {b : Bytes} (h : b.length ≠ length.toNat + 1) :
    extractBody length b = .error (.framingError (.exactly (length.toNat + 1)) b.length) :=
  if_pos h

/-- Settles O27: a count other than 8 decodes to no header, and the empty read is told apart first. -/
theorem hdrExtractsFields : Obligations.HdrExtractsFields := by
  refine ⟨fun _ => rfl, fun _ _ _ _ _ _ _ _ _ => rfl, fun _ => rfl, fun h s hnonempty hcount => ?_⟩
  rw [exec_hdr, extractHeader_wrong_count hnonempty hcount]
  rfl

/-- Settles O28: the bytes of the right count are an encoded body, and the count is checked before them. -/
theorem bodyExtractsFields : Obligations.BodyExtractsFields := by
  refine ⟨fun _ _ => rfl, fun length code data sum s hlength => ?_, fun length b s hcount => ?_, fun _ _ => rfl⟩
  · exact exec_body_encodeBody (f := ⟨⟨0, 0, 0, length⟩, ⟨code, data, sum⟩⟩) ((lengthAgrees_iff _).2 hlength) s
  · rw [exec_body, extractBody_wrong_count hcount]
    rfl

/-! ## The source match (R103 to R106) -/

theorem exec_srcmatch_discovers {s : State} {src : Addr} (hset : s.dstSet = true) (hdst : s.dst = 0x2FFF#16)
    (hsrc : discoverable src) : exec (.srcmatch src) s = complete { s with dst := src } (.matched true) := by
  rw [exec_srcmatch_set hset, if_pos ((discovers_iff _ _).2 ⟨hdst, hsrc⟩)]

theorem exec_srcmatch_compares {s : State} {src : Addr} (hset : s.dstSet = true)
    (h : ¬ (s.dst = 0x2FFF#16 ∧ discoverable src)) :
    exec (.srcmatch src) s = complete s (.matched (src == s.dst)) := by
  rw [exec_srcmatch_set hset, if_neg (mt (discovers_iff _ _).1 h)]

/-- The broadcast sentinel is the excluded upper end of the discovery interval. -/
theorem ne_broadcast_of_discoverable {src : Addr} (h : discoverable src) : src ≠ 0x2FFF#16 := by
  rintro rfl
  exact absurd h.2 (by decide)

/-- Settles O29, by the three branches of the operation. -/
theorem srcmatchDiscoversAndMatches : Obligations.SrcmatchDiscoversAndMatches :=
  fun src _ => ⟨rfl, exec_srcmatch_discovers, exec_srcmatch_compares, fun hunset => exec_srcmatch_unset hunset src⟩

/-- Settles O30: the adopted destination is not the sentinel, so the second match only compares. -/
theorem discoveryHappensOnce : Obligations.DiscoveryHappensOnce := by
  intro first second s t hset hdst hfirst hne h
  rw [exec_srcmatch_discovers hset hdst hfirst] at h
  cases h
  have hverdict : (second == first) = false := beq_eq_false_iff_ne.2 hne
  have hsecond := exec_srcmatch_compares (s := { s with dst := first, result := some (.ok (.matched true)) })
    (src := second) hset fun hd => ne_broadcast_of_discoverable hfirst hd.1
  rw [hverdict] at hsecond
  exact ⟨hsecond, rfl⟩

/-! ## PARSE (R107 to R114) -/

/-- The checks behind the guarded read of `DST`, in the order of R108. -/
theorem checkResponse_set {s : State} (h : s.dstSet = true) (f : Frame) :
    checkResponse s f =
      if f.header.length.toNat ≠ 1 + f.body.data.length then
        .error (.framingError (.exactly f.header.length.toNat) (1 + f.body.data.length))
      else if crc24 (crcCoverage f.header.src f.header.dst f.header.length) ≠ f.header.crc then
        .error (.crcMismatch (crc24 (crcCoverage f.header.src f.header.dst f.header.length)) f.header.crc)
      else if checksum (payload f.body.code f.body.data) ≠ f.body.checksum then
        .error (.checksumMismatch (checksum (payload f.body.code f.body.data)) f.body.checksum)
      else if s.dst = Config.broadcast ∨ s.dst = f.header.src then .ok ()
      else .error (.addressMismatch s.dst f.header.src) := by
  simp only [checkResponse, readDst_set h]

/-- Settles O31: the first check that fails is the one reported, and the response is accepted when none does. -/
theorem parseChecksInOrder : Obligations.ParseChecksInOrder := by
  intro crc src dst length code data sum s
  refine ⟨rfl, ?_⟩
  by_cases hunset : s.dstSet = false
  · rw [if_pos hunset]
    exact exec_parse_error (checkResponse_unset hunset _)
  · have hchecks := checkResponse_set (Bool.eq_true_of_not_eq_false hunset) ⟨⟨crc, src, dst, length⟩, ⟨code, data, sum⟩⟩
    rw [if_neg hunset]
    split_ifs with hlength hcrc hsum haddress
    · exact exec_parse_error (hchecks.trans (if_pos hlength))
    · exact exec_parse_error (hchecks.trans ((if_neg hlength).trans (if_pos hcrc)))
    · exact exec_parse_error (hchecks.trans ((if_neg hlength).trans ((if_neg hcrc).trans (if_pos hsum))))
    · exact exec_parse_ok
        (hchecks.trans ((if_neg hlength).trans ((if_neg hcrc).trans ((if_neg hsum).trans (if_pos haddress)))))
    · exact exec_parse_error
        (hchecks.trans ((if_neg hlength).trans ((if_neg hcrc).trans ((if_neg hsum).trans (if_neg haddress)))))

/-- Settles O32: the four hypotheses are the checks. -/
theorem acceptedResponseSwapsRoles : Obligations.AcceptedResponseSwapsRoles := by
  intro f s hset hagrees hintact haddress
  obtain ⟨hcrc, hsum⟩ := hintact
  exact exec_parse_ok ((checkResponse_ok_iff hset f).2 ⟨(lengthAgrees_iff f).1 hagrees, hcrc, hsum, haddress⟩)

/-- Settles O33: the corrupted bytes have another CRC (O5), which the second check of PARSE finds. -/
theorem corruptedHeaderByteIsCaught : Obligations.CorruptedHeaderByteIsCaught := by
  intro before after a b src dst src' dst' length length' code data sum s hset hne hsent hreceived crc raises
  have hcrc : crc24 (le16 src' ++ le16 dst' ++ [length']) ≠ crc := by
    rw [hreceived, show crc = crc24 (before ++ a :: after) from congrArg crc24 hsent]
    exact oneCorruptedByteChangesCrc before after b a hne.symm
  obtain ⟨-, hparse⟩ := parseChecksInOrder crc src' dst' length' code data sum s
  rw [if_neg (by simp [hset])] at hparse
  refine ⟨fun hlength => hparse.trans (if_pos hlength), fun hlength => ?_⟩
  rw [if_neg (not_not.2 hlength)] at hparse
  exact hparse.trans (if_pos hcrc)

/-- Settles O34: the match wrote `DST`, and a PARSE that raises writes nothing (O37). -/
theorem discoverySurvivesFailedParse : Obligations.DiscoverySurvivesFailedParse := by
  intro src s t crc psrc pdst length code data sum u c hset hdst hsrc hmatch hparse hraise
  rw [exec_srcmatch_discovers hset hdst hsrc] at hmatch
  cases hmatch
  rw [raisingOperationWritesNothing _ _ _ _ rfl hparse hraise]
  exact ⟨rfl, rfl, rfl⟩

/-! ## RDRESP (R113) -/

/-- Settles O35: the stored response is the whole answer. -/
theorem rdrespReturnsStoredResponse : Obligations.RdrespReturnsStoredResponse :=
  fun _ => ⟨rfl, rfl⟩

end Sys2Proof.Machine
end

section
/-! SUPPORT. The family 47_command_catalog.md: the requests of the command kinds and the decoders of their responses
(spec/47_command_catalog.md R116 to R132). The config byte is tied once to its layout of six bits, the month lengths to
the months that have them, and the history decoder to its chunks of 11 bytes. -/

namespace Sys2Proof.Machine

open Sys2Proof.Claim

/-! ## The mode table (R10, R123, R124)

A table of four distinct modes holds every mode, so `modeOf` and `modeIndex` are inverse to each other. -/

section
variable {table : Vector Mode 4} (h : table.toList.Nodup)
include h

/-- Four distinct modes among four are all of them. -/
theorem mem_modeTable (mode : Mode) : mode ∈ table.toList := by
  have hall (m : Mode) : m ∈ Config.modeTableDefault.toList := by cases m <;> decide
  have hsub : table.toList.Subperm Config.modeTableDefault.toList := h.subperm fun m _ => hall m
  exact (hsub.perm_of_length_le (by simp)).mem_iff.2 (hall mode)

theorem modeOf_modeIndex (mode : Mode) : modeOf table (modeIndex table mode) = mode := by
  obtain ⟨i, hi, hmode⟩ := Vector.getElem_of_mem (Vector.mem_toList_iff.1 (mem_modeTable h mode))
  unfold modeIndex
  split_ifs with h0 h1 h2
  · exact h0
  · exact h1
  · exact h2
  · obtain rfl | rfl | rfl | rfl : i = 0 ∨ i = 1 ∨ i = 2 ∨ i = 3 := by omega
    · exact absurd hmode h0
    · exact absurd hmode h1
    · exact absurd hmode h2
    · exact hmode

theorem modeOf_injective : Function.Injective (modeOf table) := by
  intro i j hij
  have hlength (index : BitVec 2) : index.toNat < table.toList.length := by
    rw [Vector.length_toList]
    exact index.isLt
  exact BitVec.eq_of_toNat_eq ((h.getElem_inj_iff (hi := hlength i) (hj := hlength j)).1 hij)

theorem modeIndex_modeOf (index : BitVec 2) : modeIndex table (modeOf table index) = index :=
  modeOf_injective h (modeOf_modeIndex h _)

end

/-! ## The config byte (R122, R123) -/

/-- The layout of the config byte, most significant bits first: two bits 0, then one field after the other. -/
def configLayout (transparentMode zeroThreshold : Bool) (index : BitVec 2) (dst plcDisabled : Bool) : Byte :=
  0#2 ++ BitVec.ofBool plcDisabled ++ BitVec.ofBool dst ++ index ++ BitVec.ofBool zeroThreshold ++
    BitVec.ofBool transparentMode

section
variable (tm zt : Bool) (index : BitVec 2) (dst plc : Bool)

theorem configLayout_toNat : (configLayout tm zt index dst plc).toNat =
    tm.toNat + 2 * zt.toNat + 4 * index.toNat + 16 * dst.toNat + 32 * plc.toNat := by
  decide +revert

@[simp] theorem configLayout_transparentMode : (configLayout tm zt index dst plc)[0] = tm := by decide +revert

@[simp] theorem configLayout_zeroThreshold : (configLayout tm zt index dst plc)[1] = zt := by decide +revert

@[simp] theorem configLayout_index : (configLayout tm zt index dst plc).extractLsb' 2 2 = index := by decide +revert

@[simp] theorem configLayout_dst : (configLayout tm zt index dst plc)[4] = dst := by decide +revert

@[simp] theorem configLayout_plcDisabled : (configLayout tm zt index dst plc)[5] = plc := by decide +revert

end

/-- The fields of a byte, laid out again, are its low six bits. -/
theorem configLayout_fields (g : Byte) :
    configLayout (g.getLsbD 0) (g.getLsbD 1) (g.extractLsb' 2 2) (g.getLsbD 4) (g.getLsbD 5) = g &&& 0x3F#8 := by
  decide +revert

theorem configByte_eq (table : Vector Mode 4) (c : MeterConfig) : configByte table c =
    configLayout c.transparentMode c.zeroThreshold (modeIndex table c.mode) c.dst c.plcDisabled := by
  have hbits (tm zt : Bool) (index : BitVec 2) (dst plc : Bool) :
      BitVec.ofNat 8 (tm.toNat ||| zt.toNat <<< 1 ||| index.toNat <<< 2 ||| dst.toNat <<< 4 ||| plc.toNat <<< 5) =
        configLayout tm zt index dst plc := by
    decide +revert
  exact hbits ..

theorem configOf_configByte {table : Vector Mode 4} (h : table.toList.Nodup) (c : MeterConfig) :
    configOf table c.counters (configByte table c) = c := by
  simp [configOf, configByte_eq, modeOf_modeIndex h]

/-- Settles O48: the mode's index is found again, so the fields are laid out where they were read. -/
theorem configByteKeepsLowSixBits : Obligations.ConfigByteKeepsLowSixBits := by
  intro table counters g h
  rw [configByte_eq, ← configLayout_fields g]
  simp only [configOf, modeIndex_modeOf h]

/-! ## The fixed-length decoders (R120, R121, R125, R126) -/

theorem decodeNetworkId_wrong_length {d : Bytes} (h : d.length ≠ 2) :
    decodeNetworkId d = .error (.decodeError 2 (some d.length)) := by
  unfold decodeNetworkId
  split
  · exact absurd rfl h
  · rfl

theorem decodeConfig_wrong_length (table : Vector Mode 4) {d : Bytes} (h : d.length ≠ 3) :
    decodeConfig table d = .error (.decodeError 3 (some d.length)) := by
  unfold decodeConfig
  split
  · exact absurd rfl h
  · rfl

theorem decodeLastPacket_wrong_length (table : Vector Byte 256) {d : Bytes} (hempty : d.length ≠ 0)
    (h : d.length ≠ 13) : decodeLastPacket table d = .error (.decodeError 13 (some d.length)) := by
  unfold decodeLastPacket
  split
  · exact absurd rfl hempty
  · exact absurd rfl h
  · rfl

/-- Settles O47: the three bytes are read back as the counters field and the config byte. -/
theorem configRoundTrips : Obligations.ConfigRoundTrips := by
  intro table c h
  calc decodeConfig table (encodeRequest table (.setConfig c)).2
    _ = .ok (.config (configOf table (fromLe16 (c.counters.extractLsb' 0 8) (c.counters.extractLsb' 8 8))
          (configByte table c))) := rfl
    _ = .ok (.config c) := by rw [fromLe16_le16, configOf_configByte h]

/-! ## Requests (R118) -/

/-- Settles O46: the mode's index is the one the encoder looks up, and the config byte is its layout's sum. -/
theorem requestsAreTheCatalogs : Obligations.RequestsAreTheCatalogs := by
  refine ⟨fun _ => ⟨rfl, rfl, fun _ => ⟨rfl, rfl⟩⟩, fun table c h => ?_,
    fun _ => ⟨rfl, rfl, fun _ => rfl, fun _ => ⟨rfl, rfl⟩⟩⟩
  refine ⟨(modeIndex table c.mode).toFin, configByte table c, modeOf_modeIndex h c.mode, rfl, ?_⟩
  rw [configByte_eq]
  exact configLayout_toNat ..

/-! ## Responses (R116, R117, R119) -/

theorem decodeResponse_expected {s : State} {k : CommandKind} {data : Bytes}
    (hcode : s.respCode = some (expectedCode s.setConfigAck k)) (hdata : s.respData = some data) :
    decodeResponse s k = decodePayload s k data := by
  simp [decodeResponse, hcode, hdata]

theorem decodeResponse_other {s : State} {k : CommandKind} {code : Byte} {data : Bytes}
    (hcode : s.respCode = some code) (hdata : s.respData = some data) (hne : code ≠ expectedCode s.setConfigAck k) :
    decodeResponse s k = .error (.decodeError (expectedCode s.setConfigAck k).toNat (some code.toNat)) := by
  simp [decodeResponse, hcode, hdata, hne]

/-- Settles O50: the response code is compared before the payload is looked at. -/
theorem wrongResponseCodeIsDecodeError : Obligations.WrongResponseCodeIsDecodeError :=
  fun _ _ _ _ hcode hdata hne => decodeResponse_other hcode hdata hne

/-- Settles O51: an accepted response is its payload, and each decoder takes the lengths it lists. -/
theorem fixedLengthPayloadsDecode : Obligations.FixedLengthPayloadsDecode := by
  refine ⟨fun s k d hcode hdata => ?_, fun _ _ => rfl, fun _ => decodeNetworkId_wrong_length, fun _ _ _ _ => rfl,
    fun table _ => decodeConfig_wrong_length table, fun _ => rfl, fun _ _ _ _ _ _ _ _ _ _ _ _ _ _ => rfl,
    fun table _ => decodeLastPacket_wrong_length table⟩
  rw [decodeResponse_expected hcode hdata]
  exact ⟨by rintro rfl; rfl, by rintro rfl; rfl, by rintro _ rfl; rfl, by rintro _ rfl; rfl, by rintro _ rfl; rfl⟩

/-! ## Dates (R130) -/

theorem leapYear_iff (year : Nat) : leapYear year = true ↔ 4 ∣ year ∧ ¬ 100 ∣ year ∨ 400 ∣ year := by
  simp [leapYear, Nat.dvd_iff_mod_eq_zero]

theorem daysIn_long {month : Nat} (h : month ∈ [1, 3, 5, 7, 8, 10, 12]) (year : Nat) : daysIn year month = 31 := by
  fin_cases h <;> rfl

theorem daysIn_short {month : Nat} (h : month ∈ [4, 6, 9, 11]) (year : Nat) : daysIn year month = 30 := by
  fin_cases h <;> rfl

theorem le_daysIn_february (year day : Nat) :
    day ≤ daysIn year 2 ↔ day ≤ 28 ∨ day = 29 ∧ leapYear year = true := by
  cases h : leapYear year <;> simp [daysIn, h]
  omega

/-- The twelve months, by their lengths. -/
theorem month_cases {month : Nat} (hpos : 0 < month) :
    month ≤ 12 ↔ month ∈ [1, 3, 5, 7, 8, 10, 12] ∨ month ∈ [4, 6, 9, 11] ∨ month = 2 := by
  simp only [List.mem_cons, List.not_mem_nil, or_false]
  omega

/-- A day is in its month exactly when it is within the length of its kind of month. -/
theorem month_and_day_iff {month : Nat} (hpos : 0 < month) (year day : Nat) :
    month ≤ 12 ∧ day ≤ daysIn year month ↔
      month ∈ [1, 3, 5, 7, 8, 10, 12] ∧ day ≤ 31 ∨ month ∈ [4, 6, 9, 11] ∧ day ≤ 30 ∨
        month = 2 ∧ (day ≤ 28 ∨ day = 29 ∧ (4 ∣ year ∧ ¬ 100 ∣ year ∨ 400 ∣ year)) := by
  rw [month_cases hpos, or_and_right, or_and_right, ← leapYear_iff, ← le_daysIn_february]
  refine or_congr (and_congr_right fun h => ?_) (or_congr (and_congr_right fun h => ?_) (and_congr_right fun h => ?_))
  · rw [daysIn_long h]
  · rw [daysIn_short h]
  · rw [h]

theorem mkDate_eq_some_iff (y mo d h mi : Byte) (date : DateTime) : mkDate y mo d h mi = some date ↔
    (mo.toNat + 1 ≤ 12 ∧ d.toNat + 1 ≤ daysIn (2000 + y.toNat) (mo.toNat + 1) ∧ h.toNat ≤ 23 ∧ mi.toNat ≤ 59) ∧
      ⟨2000 + y.toNat, mo.toNat + 1, d.toNat + 1, h.toNat, mi.toNat⟩ = date := by
  rw [mkDate, Option.ite_none_right_eq_some, Option.some.injEq]

/-- Settles O49: the model's check of month and day is the calendar's. -/
theorem dateExactlyWhenValid : Obligations.DateExactlyWhenValid := by
  intro y mo d h mi date
  rw [mkDate_eq_some_iff, ← month_and_day_iff (Nat.succ_pos _), eq_comm (a := date)]
  tauto

/-! ## History records (R127 to R129) -/

/-- A chunk of 11 bytes is one record, before the records of the bytes after it. -/
theorem historyRecords_chunk (table : Vector Byte 256) {chunk : Bytes} (h : chunk.length = 11) (rest : Bytes) :
    historyRecords table (chunk ++ rest) = recordAt table chunk :: historyRecords table rest := by
  match chunk, h with
  | [_, _, _, _, _, _, _, _, _, _, _], _ => rfl

theorem historyRecords_eq_map (table : Vector Byte 256) {n : Nat} {d : Bytes} (h : d.length = 11 * n) :
    historyRecords table d = (List.range n).map fun j => recordAt table ((d.drop (11 * j)).take 11) := by
  induction n generalizing d with
  | zero =>
    rw [List.length_eq_zero_iff.1 h]
    rfl
  | succ n ih =>
    have hchunk : (d.take 11).length = 11 := by rw [List.length_take]; omega
    have hrest : (d.drop 11).length = 11 * n := by rw [List.length_drop]; omega
    calc historyRecords table d
      _ = historyRecords table (d.take 11 ++ d.drop 11) := by rw [List.take_append_drop]
      _ = recordAt table (d.take 11) :: historyRecords table (d.drop 11) := historyRecords_chunk table hchunk _
      _ = _ := by
        rw [ih hrest, List.range_succ_eq_map]
        simp [Nat.mul_add, Nat.add_comm]

/-- The history decoder on an echoed counter id and the bytes after it. -/
theorem decodeHistory_le16 (table : Vector Byte 256) (counterId echoed : Addr) (rest : Bytes) :
    decodeHistory table counterId (le16 echoed ++ rest) =
      if echoed ≠ counterId then .error (.addressMismatch counterId echoed)
      else if rest.length % 11 ≠ 0 then .error (.framingError (.multipleOf 11) rest.length)
      else .ok (.history (historyRecords table rest)) := by
  simp only [le16, List.cons_append, List.nil_append, decodeHistory, fromLe16_le16]

theorem decodedAs_getHistory (s : State) (counterId : Addr) (data : Bytes) :
    decodedAs s (.getHistory counterId) data = decodeHistory s.rtableHi counterId data :=
  decodeResponse_expected rfl rfl

/-- Settles O52: the records are those of the chunks, by their offsets. -/
theorem historyDecodesEveryChunkInOrder : Obligations.HistoryDecodesEveryChunkInOrder := by
  intro s counterId
  refine ⟨decodedAs_getHistory s counterId [], fun rest n h => ⟨historyRecords s.rtableHi rest, ?_, ?_, fun j hj => ?_⟩⟩
  · rw [decodedAs_getHistory, decodeHistory_le16, if_neg (by simp), if_neg (by omega)]
  · simp [historyRecords_eq_map _ h]
  · simp [historyRecords_eq_map _ h, hj]

/-- Settles O53: the checks of the decoder, one after the other. -/
theorem historyErrorsInOrder : Obligations.HistoryErrorsInOrder := by
  intro s counterId
  refine ⟨fun a => decodedAs_getHistory s counterId [a], fun echoed rest hne => ?_, fun rest hrest => ?_⟩
  · rw [decodedAs_getHistory, decodeHistory_le16, if_pos hne]
  · rw [decodedAs_getHistory, decodeHistory_le16, if_neg (by simp), if_pos (by omega)]

end Sys2Proof.Machine
end

section
/-! SUPPORT. The family 48_host_session.md: the host's exchange (spec/48_host_session.md R136 to R146). The send steps
are one function of the Transport, a receive attempt is a frame read and then a match, and an exchange is its send steps
and its attempts; the obligations put these together. -/

namespace Sys2Proof.Machine

open Sys2Proof.Claim

/-! ## The calls that make the line ready (R138, R144) -/

section
variable {t : Transport} {f : LineFailure} {rest : List CallOutcome}

/-- A call that fails leaves the line as the statements say it. -/
theorem Transport.call_lost (c : TransportCall) (hc : t.calls = .failed f :: rest) :
    t.call c = (lineLost f { t with calls := rest, log := t.log ++ [c] }, .error f) :=
  Transport.call_failed c hc

theorem Transport.openLine_open (h : t.isOpen = true) : t.openLine = (t, .ok ()) := by
  simp [Transport.openLine, h]

theorem Transport.openLine_done (h : t.isOpen = false) (hc : ∀ o ∈ t.calls.take 1, o = .done) :
    t.openLine = ({ t with
      isOpen := true, configured := false, calls := t.calls.drop 1, log := t.log ++ [.openLine] }, .ok ()) := by
  simp [Transport.openLine, h, Transport.call_done _ hc]

theorem Transport.openLine_failed (h : t.isOpen = false) (hc : t.calls = .failed f :: rest) :
    t.openLine = (lineLost f { t with calls := rest, log := t.log ++ [.openLine] }, .error f.error) := by
  simp [Transport.openLine, h, Transport.call_lost _ hc]

theorem Transport.configure_done (hc : ∀ o ∈ t.calls.take 1, o = .done) :
    t.configure =
      ({ t with configured := true, calls := t.calls.drop 1, log := t.log ++ [.configure] }, .ok ()) := by
  simp [Transport.configure, Transport.call_done _ hc]

theorem Transport.configure_failed (hc : t.calls = .failed f :: rest) :
    t.configure = (lineLost f { t with calls := rest, log := t.log ++ [.configure] }, .error f.error) := by
  simp [Transport.configure, Transport.call_lost _ hc]

theorem Transport.flush_failed (hc : t.calls = .failed f :: rest) :
    t.flush = (lineLost f { t with calls := rest, log := t.log ++ [.flush] }, .error f.error) := by
  simp [Transport.flush, Transport.call_lost _ hc]

theorem Transport.write_failed (b : Bytes) (hc : t.calls = .failed f :: rest) :
    t.write b = (lineLost f { t with
      calls := rest, log := t.log ++ [.write b], unwritten := t.unwritten ++ b.drop f.sent }, .error f.error) := by
  simp only [Transport.write, Transport.call_lost _ hc, lineLost]
  split <;> rfl

/-- A line that is not configured is ready once the configure has succeeded. -/
theorem Transport.ensureReady_of_openLine {u : Transport} (h : t.openLine = (u, .ok ())) (hu : u.configured = false) :
    t.ensureReady = u.configure := by
  simp [Transport.ensureReady, h, hu]

theorem Transport.ensureReady_open_failed (h : t.isOpen = false) (hc : t.calls = .failed f :: rest) :
    t.ensureReady = (lineLost f { t with calls := rest, log := t.log ++ [.openLine] }, .error f.error) := by
  simp [Transport.ensureReady, Transport.openLine_failed h hc]

/-- The three lines there are, by the calls that make them ready. -/
theorem readyCalls_cases (t : Transport) :
    (t.isOpen = true ∧ t.configured = true ∧ readyCalls t = []) ∨
    (t.isOpen = true ∧ t.configured = false ∧ readyCalls t = [.configure]) ∨
    (t.isOpen = false ∧ readyCalls t = [.openLine, .configure]) := by
  cases ho : t.isOpen <;> cases hc : t.configured <;> simp [readyCalls, ho, hc]

/-- The line made ready by calls that succeed. -/
def Transport.madeReady (t : Transport) : Transport :=
  { t with
    isOpen := true, configured := true
    calls := t.calls.drop (readyCalls t).length, log := t.log ++ readyCalls t }

theorem Transport.ensureReady_done (h : ∀ o ∈ t.calls.take (readyCalls t).length, o = .done) :
    t.ensureReady = (t.madeReady, .ok ()) := by
  obtain ⟨ho, hc, hr⟩ | ⟨ho, hc, hr⟩ | ⟨ho, hr⟩ := readyCalls_cases t <;> rw [hr] at h
  · rw [Transport.ensureReady_ready ho hc]
    cases t
    simp_all [Transport.madeReady]
  · rw [Transport.ensureReady_of_openLine (Transport.openLine_open ho) hc, Transport.configure_done h]
    simp [Transport.madeReady, hr, ← ho]
  · have hopen : ∀ o ∈ t.calls.take 1, o = .done := fun o m => h o (List.take_subset_take_left _ (by simp) m)
    have hconfigure : ∀ o ∈ (t.calls.drop 1).take 1, o = .done := fun o m =>
      h o (List.mem_of_mem_drop (i := 1) (by rwa [List.drop_take]))
    rw [Transport.ensureReady_of_openLine (Transport.openLine_done ho hopen) rfl, Transport.configure_done hconfigure]
    simp [Transport.madeReady, hr]

theorem Transport.ensureReady_configure_failed (hm : .configure ∈ readyCalls t)
    (hc : t.calls = List.replicate ((readyCalls t).length - 1) .done ++ .failed f :: rest) :
    t.ensureReady = (lineLost f { t with
      isOpen := true, configured := false, calls := rest, log := t.log ++ readyCalls t }, .error f.error) := by
  obtain ⟨-, -, hr⟩ | ⟨ho, hn, hr⟩ | ⟨ho, hr⟩ := readyCalls_cases t <;> rw [hr] at hm hc
  · cases hm
  · rw [Transport.ensureReady_of_openLine (Transport.openLine_open ho) hn, Transport.configure_failed hc]
    simp [hr, ← ho, ← hn]
  · have hopen := Transport.openLine_done ho (by simp [hc])
    rw [Transport.ensureReady_of_openLine hopen rfl, Transport.configure_failed (rest := rest) (f := f) (by simp [hc])]
    simp [hr]

end

/-! ## The send steps (R138) -/

/-- The Transport calls of the send steps: the line made ready, flushed, the frame written. -/
def Transport.send (frame : Bytes) (t : Transport) : Transport × Except TransportError Unit :=
  match t.ensureReady with
  | (u, .error e) => (u, .error e)
  | (u, .ok ()) =>
    match u.flush with
    | (v, .error e) => (v, .error e)
    | (v, .ok ()) =>
      match v.write frame with
      | (w, .error e) => (w, .error e)
      | (w, .ok _) => (w, .ok ())

/-- The bytes of the request of a kind (R91 to R93, R118). -/
def requestBytes (s : State) (k : CommandKind) : Bytes :=
  encodeFrame (requestFrame s.sessSrc s.sessDst (encodeRequest s.modeTable k).1 (encodeRequest s.modeTable k).2)

/-- The session addresses loaded (R89, R137), with this Transport. -/
def loadedWith (s : State) (t : Transport) : State := { loadAddresses s s.sessSrc s.sessDst with transport := t }

@[simp] theorem loadedWith_transport (s : State) (t : Transport) : (loadedWith s t).transport = t := rfl

theorem andThen_congr {α β : Type} {r : State × Except Cause α} {next next' : α → State → State × Except Cause β}
    (h : ∀ a, next a r.1 = next' a r.1) : andThen r next = andThen r next' := by
  obtain ⟨s, c | a⟩ := r
  · rfl
  · exact h a

/-- The Transport's calls of the send steps, one host action after another. -/
theorem onTransport_send (frame : Bytes) (s : State) : onTransport (Transport.send frame) s =
    andThen (onTransport Transport.ensureReady s) fun _ s =>
    andThen (onTransport Transport.flush s) fun _ s =>
    andThen (onTransport (Transport.write frame) s) fun _ s => (s, .ok ()) := by
  simp only [onTransport, Transport.send, andThen]
  rcases s.transport.ensureReady with ⟨u, e | _⟩
  · rfl
  rcases hflush : u.flush with ⟨v, e | _⟩
  · simp [hflush]
  rcases hwrite : v.write frame with ⟨w, e | _⟩ <;> simp [hflush, hwrite]

/-- With the addresses loaded the request is composed without fail, so the send steps are the Transport's calls. -/
theorem sendRequest_loadedWith (k : CommandKind) (s : State) (t : Transport) :
    sendRequest k (loadedWith s t) = onTransport (Transport.send (requestBytes s k)) (loadedWith s t) := by
  have hcompose (u : Transport) : composeFrame (loadedWith s u) (encodeRequest s.modeTable k).1
      (encodeRequest s.modeTable k).2 = .ok (requestBytes s k) :=
    composeFrame_short rfl rfl _ (by have := encodeRequest_short s.modeTable k; omega)
  rw [onTransport_send]
  refine andThen_congr fun _ => andThen_congr fun _ => ?_
  exact congrArg (fun r => andThen (onBlock r (loadedWith s _)) _) (hcompose _)

theorem exchange_eq (k : CommandKind) (s : State) : exchange k s =
    andThen (onTransport (Transport.send (requestBytes s k)) (loadedWith s s.transport)) fun _ s =>
      receiveLoop k 5 s := by
  rw [← sendRequest_loadedWith]
  rfl

section
variable {t : Transport} {frame : Bytes} {f : LineFailure} {rest : List CallOutcome}

theorem Transport.send_ready_failed {u : Transport} {e : TransportError} (h : t.ensureReady = (u, .error e)) :
    t.send frame = (u, .error e) := by
  simp [Transport.send, h]

theorem Transport.send_flush_failed
    (h : t.calls = List.replicate (readyCalls t).length .done ++ .failed f :: rest) :
    t.send frame = (lineLost f { t with
      isOpen := true, configured := true, calls := rest, log := t.log ++ readyCalls t ++ [.flush] },
      .error f.error) := by
  have hready := Transport.ensureReady_done (t := t) (by simp [h])
  have hflush := Transport.flush_failed (t := t.madeReady) (f := f) (rest := rest) (by simp [Transport.madeReady, h])
  simp only [Transport.send, hready, hflush]
  simp [Transport.madeReady]

theorem Transport.send_write_failed
    (h : t.calls = List.replicate ((readyCalls t).length + 1) .done ++ .failed f :: rest) :
    t.send frame = (lineLost f { t with
      isOpen := true, configured := true, incoming := [], calls := rest
      log := t.log ++ readyCalls t ++ [.flush, .write frame], unwritten := frame.drop f.sent }, .error f.error) := by
  have hready := Transport.ensureReady_done (t := t) (by simp [h, List.take_append])
  have hflush := Transport.flush_done (t := t.madeReady) (by simp [Transport.madeReady, h, List.drop_append])
  simp only [Transport.send, hready, hflush]
  rw [Transport.write_failed (f := f) (rest := rest) _ (by simp [Transport.madeReady, h])]
  simp [Transport.madeReady]

theorem Transport.send_done (h : ∀ o ∈ t.calls.take ((readyCalls t).length + 2), o = .done) :
    t.send frame = ({ t with
      isOpen := true, configured := true, incoming := [], unwritten := []
      calls := t.calls.drop ((readyCalls t).length + 2)
      log := t.log ++ readyCalls t ++ [.flush, .write frame] }, .ok ()) := by
  have hready := Transport.ensureReady_done (t := t) fun o m =>
    h o (List.take_subset_take_left _ (Nat.le_add_right _ 2) m)
  have hcall (i : Nat) (hi : i < 2) : ∀ o ∈ (t.calls.drop ((readyCalls t).length + i)).take 1, o = .done :=
    fun o m => h o (List.take_subset_take_left _ (by omega) (List.mem_of_mem_drop (List.take_drop ▸ m)))
  have hflush := Transport.flush_done (t := t.madeReady) (hcall 0 (by omega))
  simp only [Transport.send, hready, hflush]
  rw [Transport.write_done _ (by simpa [Transport.madeReady] using hcall 1 (by omega))]
  simp [Transport.madeReady]

end

/-! ## Reads that return encoded frames (R139) -/

theorem chunksOf_append (xs ys : List Frame) : chunksOf (xs ++ ys) = chunksOf xs ++ chunksOf ys := by
  induction xs with
  | nil => rfl
  | cons f xs ih => simp [chunksOf, ih]

theorem readCalls_append (xs ys : List Frame) : readCalls (xs ++ ys) = readCalls xs ++ readCalls ys := by
  induction xs with
  | nil => rfl
  | cons f xs ih => simp [readCalls, ih]

/-- One chunk more is one read that returns it. -/
theorem read_of_afterReads {t : Transport} {b : Bytes} {bs : List Bytes} {left : Bytes} {rest : List ReadOutcome}
    (h : afterReads t.incoming t.reads (b :: bs) = some (left, rest)) :
    ∃ incoming reads, afterReads incoming reads bs = some (left, rest) ∧ t.read b.length =
      ({ t with incoming := incoming, reads := reads, log := t.log ++ [.read b.length] }, .ok b) := by
  rcases hr : t.reads with _ | ⟨⟨arrived, n | f⟩, reads⟩ <;> simp only [hr, afterReads] at h
  · split_ifs at h with hb
    have hlength : b.length ≤ t.incoming.length := by rw [← hb]; simp
    exact ⟨_, _, h, by rw [Transport.read_buffered _ hr hlength, hb, hr]⟩
  · split_ifs at h with hb
    exact ⟨_, _, h, by rw [Transport.read_count _ hr, hb]⟩
  · cases h

theorem afterReads_append (incoming : Bytes) (reads : List ReadOutcome) (xs ys : List Bytes) :
    afterReads incoming reads (xs ++ ys) =
      (afterReads incoming reads xs).bind fun p => afterReads p.1 p.2 ys := by
  fun_induction afterReads incoming reads xs <;> simp_all [afterReads]

/-- The line after reads that returned these frames and left these unread bytes and outcomes. -/
def Transport.received (t : Transport) (frames : List Frame) (incoming : Bytes) (reads : List ReadOutcome) :
    Transport :=
  { t with incoming := incoming, reads := reads, log := t.log ++ readCalls frames }

theorem received_received (t : Transport) (xs ys : List Frame) (i i' : Bytes) (r r' : List ReadOutcome) :
    (t.received xs i r).received ys i' r' = t.received (xs ++ ys) i' r' := by
  simp [Transport.received, readCalls_append]

theorem lineAfter_received (s : State) (k : CommandKind) (xs ys : List Frame) (i i' : Bytes)
    (r r' : List ReadOutcome) : (lineAfter s k xs i r).received ys i' r' = lineAfter s k (xs ++ ys) i' r' := by
  simp [Transport.received, lineAfter, readCalls_append]

/-! ## One receive attempt (R139, R140) -/

/-- A header read and a body read, up to the whole frame. -/
def receiveFrame (s : State) : State × Except Cause Frame :=
  andThen (onTransport (Transport.read 8) s) fun h s =>
  andThen (onBlock (extractHeader h) s) fun header s =>
  andThen (onTransport (Transport.read (header.length.toNat + 1)) s) fun b s =>
  andThen (onBlock (extractBody header.length b) s) fun body s =>
  (s, .ok ⟨header, body⟩)

/-- What follows a match: `PARSE`, the session stored, the decoder. -/
def finishExchange (k : CommandKind) (f : Frame) (s : State) : State × Except Cause Decoded :=
  andThen (hostParse f s) fun _ s =>
  andThen (hostStoreSession s) fun _ s =>
  onBlock (decodeResponse s k) s

theorem andThen_assoc {α β γ : Type} (r : State × Except Cause α) (next : α → State → State × Except Cause β)
    (next' : β → State → State × Except Cause γ) :
    andThen (andThen r next) next' = andThen r fun a s => andThen (next a s) next' := by
  obtain ⟨s, c | a⟩ := r <;> rfl

theorem receiveLoop_zero (k : CommandKind) (s : State) : receiveLoop k 0 s = (s, .error .retryLimitExceeded) := rfl

theorem receiveLoop_succ (k : CommandKind) (n : Nat) (s : State) : receiveLoop k (n + 1) s =
    andThen (receiveFrame s) fun f s =>
    andThen (hostMatch f.header.src s) fun verdict s =>
    if verdict then finishExchange k f s else receiveLoop k n s := by
  simp only [receiveFrame, andThen_assoc, andThen_ok]
  rfl

theorem receiveLoop_of_receiveFrame_error {k : CommandKind} {n : Nat} {s t : State} {c : Cause}
    (h : receiveFrame s = (t, .error c)) : receiveLoop k (n + 1) s = (t, .error c) := by
  rw [receiveLoop_succ, h, andThen_error]

/-! ### A read that ends the attempt (R97, R99, R146) -/

theorem extractBody_lone_code {length : Byte} {b : Bytes} (hlength : length = 0) (hb : b.length = 1) :
    extractBody length b = .error (.framingError (.exactly 1) 0) := by
  obtain ⟨code, rfl⟩ := List.length_eq_one_iff.1 hb
  rw [hlength]
  rfl

section
variable {s : State} {t u : Transport} {b : Bytes} {h : Header} {e : TransportError} {c : Cause}

theorem receiveFrame_header_failed (hread : s.transport.read 8 = (t, .error e)) :
    receiveFrame s = ({ s with transport := t }, .error (.transportFault e)) := by
  rw [receiveFrame, onTransport_error hread, andThen_error]

theorem receiveFrame_header_refused (hread : s.transport.read 8 = (t, .ok b)) (hb : extractHeader b = .error c) :
    receiveFrame s = ({ s with transport := t }, .error c) := by
  rw [receiveFrame, onTransport_ok hread, andThen_ok, hb, onBlock, andThen_error]

/-- Once the header is read, the attempt goes on with the body read. -/
theorem receiveFrame_of_header (hread : s.transport.read 8 = (t, .ok (encodeHeader h))) : receiveFrame s =
    andThen (onTransport (Transport.read (h.length.toNat + 1)) { s with transport := t }) fun b s =>
    andThen (onBlock (extractBody h.length b) s) fun body s => (s, .ok ⟨h, body⟩) := by
  rw [receiveFrame, onTransport_ok hread, andThen_ok, extractHeader_encodeHeader, onBlock, andThen_ok]

theorem receiveFrame_body_failed (hread : s.transport.read 8 = (t, .ok (encodeHeader h)))
    (hbody : t.read (h.length.toNat + 1) = (u, .error e)) :
    receiveFrame s = ({ s with transport := u }, .error (.transportFault e)) := by
  rw [receiveFrame_of_header hread, onTransport_error hbody, andThen_error]

theorem receiveFrame_body_refused (hread : s.transport.read 8 = (t, .ok (encodeHeader h)))
    (hbody : t.read (h.length.toNat + 1) = (u, .ok b)) (hb : extractBody h.length b = .error c) :
    receiveFrame s = ({ s with transport := u }, .error c) := by
  rw [receiveFrame_of_header hread, onTransport_ok hbody, andThen_ok, hb, onBlock, andThen_error]

end

/-! ### Attempts that receive whole frames (R140, R142) -/

section
variable {s : State} {f : Frame} {left : Bytes} {rest : List ReadOutcome}

theorem receiveFrame_of_afterReads (hagrees : f.lengthAgrees = true)
    (h : afterReads s.transport.incoming s.transport.reads (chunksOf [f]) = some (left, rest)) :
    receiveFrame s = ({ s with transport := s.transport.received [f] left rest }, .ok f) := by
  obtain ⟨i, r, h, hheader⟩ := read_of_afterReads h
  obtain ⟨i', r', h, hbody⟩ := read_of_afterReads
    (t := { s.transport with incoming := i, reads := r, log := s.transport.log ++ [.read 8] }) h
  cases h
  have hlength : (encodeBody f.body).length = f.header.length.toNat + 1 := by
    rw [encodeBody_length, (lengthAgrees_iff f).1 hagrees]
    omega
  rw [hlength] at hbody
  rw [receiveFrame_of_header hheader, onTransport_ok hbody, andThen_ok, extractBody_encodeBody hagrees, onBlock,
    andThen_ok]
  simp [Transport.received, readCalls]

theorem fromExpected_iff (d src : Addr) : fromExpected d src ↔ src = d ∨ discovers d src = true := by
  rw [discovers_iff]
  rfl

theorem hostMatch_foreign (hset : s.dstSet = true) {src : Addr} (h : ¬ fromExpected s.dst src) :
    hostMatch src s = (s, .ok false) := by
  rw [fromExpected_iff, not_or] at h
  obtain ⟨hne, hd⟩ := h
  rw [hostMatch_set hset, if_neg hd, beq_eq_false_iff_ne.2 hne]

theorem hostMatch_expected (hset : s.dstSet = true) {src : Addr} (h : fromExpected s.dst src) :
    hostMatch src s = ({ s with dst := src }, .ok true) := by
  rw [hostMatch_set hset]
  by_cases hd : discovers s.dst src = true
  · rw [if_pos hd]
  · have hsrc : src = s.dst := ((fromExpected_iff _ _).1 h).resolve_right hd
    rw [if_neg hd, beq_iff_eq.2 hsrc, hsrc]

/-- A frame from the expected source ends the attempts. -/
theorem receiveLoop_expected (k : CommandKind) (n : Nat) (hset : s.dstSet = true) (hagrees : f.lengthAgrees = true)
    (hsrc : fromExpected s.dst f.header.src)
    (h : afterReads s.transport.incoming s.transport.reads (chunksOf [f]) = some (left, rest)) :
    receiveLoop k (n + 1) s = finishExchange k f
      { s with dst := f.header.src, transport := s.transport.received [f] left rest } := by
  have hmatch := hostMatch_expected (s := { s with transport := s.transport.received [f] left rest }) hset hsrc
  rw [receiveLoop_succ, receiveFrame_of_afterReads hagrees h, andThen_ok, hmatch, andThen_ok, if_pos rfl]

/-- Each frame from a foreign source uses up one attempt and changes nothing but the Transport. -/
theorem receiveLoop_foreign (k : CommandKind) (n : Nat) {frames : List Frame} (hset : s.dstSet = true)
    (hforeign : ∀ g ∈ frames, g.lengthAgrees = true ∧ ¬ fromExpected s.dst g.header.src)
    (h : afterReads s.transport.incoming s.transport.reads (chunksOf frames) = some (left, rest)) :
    receiveLoop k (frames.length + n) s =
      receiveLoop k n { s with transport := s.transport.received frames left rest } := by
  induction frames generalizing s with
  | nil =>
    cases h
    simp [Transport.received, readCalls]
  | cons g frames ih =>
    obtain ⟨⟨hagrees, hsrc⟩, hrest⟩ := List.forall_mem_cons.1 hforeign
    rw [← List.singleton_append, chunksOf_append, afterReads_append, Option.bind_eq_some_iff] at h
    obtain ⟨⟨i, r⟩, hfirst, h⟩ := h
    have hmatch := hostMatch_foreign (s := { s with transport := s.transport.received [g] i r }) hset hsrc
    have hnext := ih (s := { s with transport := s.transport.received [g] i r }) hset hrest h
    rw [received_received] at hnext
    rw [List.length_cons, Nat.add_right_comm, receiveLoop_succ, receiveFrame_of_afterReads hagrees hfirst, andThen_ok,
      hmatch, andThen_ok]
    exact hnext

end

/-! ### The end of an exchange whose source matched (R107 to R110, R137, R141) -/

/-- An accepted response with its session addresses stored. -/
def storedResponse (f : Frame) (s : State) : State :=
  { acceptResponse s f with sessSrc := f.header.dst, sessDst := f.header.src }

theorem finishExchange_refused (k : CommandKind) {f : Frame} {s : State} {c : Cause}
    (h : checkResponse s f = .error c) : finishExchange k f s = (s, .error c) := by
  simp [finishExchange, hostParse, parseResponse, h]

theorem finishExchange_accepted (k : CommandKind) {f : Frame} {s : State} (h : checkResponse s f = .ok ()) :
    finishExchange k f s = (storedResponse f s, decodeResponse (storedResponse f s) k) := by
  have hread : readAddresses (acceptResponse s f) = .ok (f.header.dst, f.header.src) := readAddresses_set rfl rfl
  simp only [finishExchange, hostParse, parseResponse, h, andThen_ok, hostStoreSession, hread, onBlock, storedResponse]

/-! ## A whole exchange, by what the line does -/

/-- The result of an exchange (R136). -/
def exchangeResult : Except Cause Decoded → Result
  | .ok d => .ok (.decoded d)
  | .error c => .raise c

/-- No cause an exchange can end with is the fault `AddressUnset`. -/
theorem reportExchange_operational {s : State} {r : Except Cause Decoded} (h : ∀ c, r = .error c → Operational c) :
    reportExchange (s, r) = .next { s with result := some (exchangeResult r) } := by
  cases r with
  | ok d => rfl
  | error c => exact raise_next s (h c rfl)

/-- An exchange that ends with an error before any source matched. -/
theorem exec_of_exchange_failed {k : CommandKind} {s : State} {t : Transport} {c : Cause} (hc : Operational c)
    (h : exchange k s = (loadedWith s t, .error c)) : exec (instrOf k) s = .next (failed s t c) := by
  rw [exec_instrOf, h, reportExchange_operational (by rintro _ ⟨⟩; exact hc)]
  rfl

theorem exchange_send_failed {k : CommandKind} {s : State} {t : Transport} {e : TransportError}
    (h : s.transport.send (requestBytes s k) = (t, .error e)) :
    exchange k s = (loadedWith s t, .error (.transportFault e)) := by
  rw [exchange_eq, onTransport_error (s := loadedWith s s.transport) h, andThen_error]
  rfl

section
variable {k : CommandKind} {s : State} {foreign : List Frame} {left : Bytes} {rest : List ReadOutcome}

theorem exchange_ready (hready : lineReady s) :
    exchange k s = receiveLoop k 5 (loadedWith s (lineAfter s k [] [] s.transport.reads)) := by
  have hsend : s.transport.send (requestBytes s k) = (lineAfter s k [] [] s.transport.reads, .ok ()) := by
    rw [Transport.send_done hready]
    simp [lineAfter, readCalls, sendCalls, requestBytes]
  rw [exchange_eq, onTransport_ok (s := loadedWith s s.transport) hsend, andThen_ok]
  rfl

/-- After frames from foreign sources the exchange goes on with the attempts left. -/
theorem exchange_foreign (n : Nat) (hready : lineReady s) (hn : foreign.length + n = 5)
    (hforeign : ∀ g ∈ foreign, g.lengthAgrees = true ∧ ¬ fromExpected s.sessDst g.header.src)
    (h : afterReads [] s.transport.reads (chunksOf foreign) = some (left, rest)) :
    exchange k s = receiveLoop k n (loadedWith s (lineAfter s k foreign left rest)) := by
  have hloop := receiveLoop_foreign k n (s := loadedWith s (lineAfter s k [] [] s.transport.reads)) rfl hforeign h
  rw [exchange_ready hready, ← hn, hloop, loadedWith_transport, lineAfter_received]
  rfl

/-- A frame from the expected source, after at most four from foreign ones, ends the exchange. -/
theorem exchange_expected {f : Frame} (hready : lineReady s) (hcount : foreign.length ≤ 4)
    (hforeign : ∀ g ∈ foreign, g.lengthAgrees = true ∧ ¬ fromExpected s.sessDst g.header.src)
    (hagrees : f.lengthAgrees = true) (hsrc : fromExpected s.sessDst f.header.src)
    (h : afterReads [] s.transport.reads (chunksOf (foreign ++ [f])) = some (left, rest)) :
    exchange k s = finishExchange k f
      { loadedWith s (lineAfter s k (foreign ++ [f]) left rest) with dst := f.header.src } := by
  rw [chunksOf_append, afterReads_append, Option.bind_eq_some_iff] at h
  obtain ⟨⟨i, r⟩, hskipped, h⟩ := h
  have hloop := receiveLoop_expected k (4 - foreign.length) (s := loadedWith s (lineAfter s k foreign i r)) rfl
    hagrees hsrc h
  rw [exchange_foreign (4 - foreign.length + 1) hready (by omega) hforeign hskipped, hloop, loadedWith_transport,
    lineAfter_received]
  rfl

/-- An attempt that fails before its frame is whole ends the exchange. -/
theorem exec_of_receiveFrame_error {t : Transport} {c : Cause} (hready : lineReady s) (hcount : foreign.length ≤ 4)
    (hforeign : ∀ g ∈ foreign, g.lengthAgrees = true ∧ ¬ fromExpected s.sessDst g.header.src)
    (h : afterReads [] s.transport.reads (chunksOf foreign) = some (left, rest)) (hc : Operational c)
    (hframe : receiveFrame (loadedWith s (lineAfter s k foreign left rest)) = (loadedWith s t, .error c)) :
    exec (instrOf k) s = .next (failed s t c) := by
  refine exec_of_exchange_failed hc ?_
  rw [exchange_foreign (4 - foreign.length + 1) hready (by omega) hforeign h, receiveLoop_of_receiveFrame_error hframe]

end

/-- Settles O54: the attempts after the foreign frames meet the expected one, and an intact frame passes every check. -/
theorem exchangeReturnsDecodedResponse : Obligations.ExchangeReturnsDecodedResponse := by
  intro k s foreign f left rest hready hcount hforeign hagrees hintact hsrc h
  obtain ⟨hcrc, hsum⟩ := hintact
  have haccepted : checkResponse
      { loadedWith s (lineAfter s k (foreign ++ [f]) left rest) with dst := f.header.src } f = .ok () :=
    (checkResponse_ok_iff rfl f).2 ⟨(lengthAgrees_iff f).1 hagrees, hcrc, hsum, .inr rfl⟩
  rw [exec_instrOf, exchange_expected hready hcount hforeign hagrees hsrc h, finishExchange_accepted k haccepted,
    reportExchange_operational fun _ hc => decodeResponse_error hc]
  rfl

/-- Settles O55: no attempt is left after five foreign frames. -/
theorem fiveMismatchesExhaustRetries : Obligations.FiveMismatchesExhaustRetries := by
  intro k s foreign left rest hready hcount hforeign h
  refine exec_of_exchange_failed (fun _ => nofun) ?_
  rw [exchange_foreign 0 hready hcount hforeign h, receiveLoop_zero]

/-- Settles O56: the exchange ends with the first of the two checks that fails, out of the state the match left. -/
theorem corruptedExpectedFrameIsFatal : Obligations.CorruptedExpectedFrameIsFatal := by
  intro k s foreign f left rest hready hcount hforeign hagrees hsrc h crc sum after
  have hlength : ¬ f.header.length.toNat ≠ 1 + f.body.data.length := not_not.2 ((lengthAgrees_iff f).1 hagrees)
  have hchecks := checkResponse_set
    (s := { loadedWith s (lineAfter s k (foreign ++ [f]) left rest) with dst := f.header.src }) rfl f
  rw [if_neg hlength] at hchecks
  have hexchange := exchange_expected (k := k) hready hcount hforeign hagrees hsrc h
  refine ⟨fun hcrc => ?_, fun hcrc hsum => ?_⟩
  · rw [exec_instrOf, hexchange, finishExchange_refused k (hchecks.trans (if_pos hcrc))]
    rfl
  · rw [exec_instrOf, hexchange,
      finishExchange_refused k (hchecks.trans ((if_neg (not_not.2 hcrc)).trans (if_pos hsum)))]
    rfl

/-- Settles O57: the attempt after the foreign frames ends in one of its two reads. -/
theorem badReadEndsExchange : Obligations.BadReadEndsExchange := by
  intro k s foreign left rest hready hcount hforeign h line outcome hline
  have ends {t : Transport} {c : Cause} (hc : Operational c)
      (hframe : receiveFrame (loadedWith s (lineAfter s k foreign left rest)) = (loadedWith s t, .error c)) :
      exec (instrOf k) s = .next (failed s t c) :=
    exec_of_receiveFrame_error hready hcount hforeign h hc hframe
  refine ⟨?_, ?_, ?_, fun header hheader line' outcome' hline' => ⟨?_, ?_, ?_⟩⟩
  · rintro e rfl
    exact ends (fun _ => nofun) (receiveFrame_header_failed hline)
  · rintro rfl
    exact ends (fun _ => nofun) (receiveFrame_header_refused hline rfl)
  · rintro b rfl hnonempty hsize
    exact ends (fun _ => nofun) (receiveFrame_header_refused hline (extractHeader_wrong_count hnonempty hsize))
  · rintro e rfl
    exact ends (fun _ => nofun) (receiveFrame_body_failed (hheader ▸ hline) hline')
  · rintro b rfl hsize
    exact ends (fun _ => nofun) (receiveFrame_body_refused (hheader ▸ hline) hline' (extractBody_wrong_count hsize))
  · rintro b rfl hzero hsize
    exact ends (fun _ => nofun) (receiveFrame_body_refused (hheader ▸ hline) hline' (extractBody_lone_code hzero hsize))

/-- Settles O58: each of the four calls that fails is the one the send steps end with. -/
theorem failedSendStepEndsExchange : Obligations.FailedSendStepEndsExchange := by
  intro k s f rest line ready ends
  have fails {t : Transport} (h : line.send (requestBytes s k) = (lineLost f t, .error f.error)) : ends t :=
    exec_of_exchange_failed (fun _ => nofun) (exchange_send_failed h)
  refine ⟨fun hm hc => ?_, fun hm hc => ?_, fun hc => ?_, fun hc => ?_⟩
  · obtain ⟨-, -, hr⟩ | ⟨-, -, hr⟩ | ⟨hclosed, -⟩ := readyCalls_cases line
    · simp [ready, hr] at hm
    · simp [ready, hr] at hm
    · exact fails (Transport.send_ready_failed (Transport.ensureReady_open_failed hclosed hc))
  · exact fails (Transport.send_ready_failed (Transport.ensureReady_configure_failed hm hc))
  · exact fails (Transport.send_flush_failed hc)
  · exact fails (Transport.send_write_failed hc)

/-! ## What an exchange leaves, whatever the line does (R136, R137, R153) -/

/-- An action out of `s` changed nothing but the Transport. -/
def OnlyTransport {α : Type} (s : State) (r : State × Except Cause α) : Prop := ∃ t, r.1 = { s with transport := t }

theorem onlyTransport_andThen {α β : Type} {s : State} {r : State × Except Cause α}
    {next : α → State → State × Except Cause β} (hr : OnlyTransport s r)
    (hnext : ∀ a t, OnlyTransport s (next a { s with transport := t })) : OnlyTransport s (andThen r next) := by
  obtain ⟨s', c | a⟩ := r
  · exact hr
  · obtain ⟨t, rfl⟩ := hr
    exact hnext a t

theorem onlyTransport_receiveFrame (s : State) : OnlyTransport s (receiveFrame s) := by
  refine onlyTransport_andThen ⟨_, rfl⟩ fun h t => ?_
  refine onlyTransport_andThen ⟨t, rfl⟩ fun header t => ?_
  refine onlyTransport_andThen ⟨_, rfl⟩ fun b t => ?_
  exact onlyTransport_andThen ⟨t, rfl⟩ fun body t => ⟨t, rfl⟩

/-- The two ends of an exchange out of a state with its addresses set: an error that left everything but the Transport
and a discovered destination as it was, or the decoder's answer after a stored response. -/
def Ends (k : CommandKind) (s : State) (r : State × Except Cause Decoded) : Prop :=
  (∃ t dst c, r = ({ s with transport := t, dst := dst }, .error c)) ∨
    ∃ f t, r = (storedResponse f { s with transport := t },
      decodeResponse (storedResponse f { s with transport := t }) k)

theorem ends_receiveLoop (k : CommandKind) (n : Nat) {s : State} (hset : s.dstSet = true) :
    Ends k s (receiveLoop k n s) := by
  induction n generalizing s with
  | zero => exact .inl ⟨s.transport, s.dst, _, rfl⟩
  | succ n ih =>
    obtain ⟨t, ht⟩ := onlyTransport_receiveFrame s
    rcases hframe : receiveFrame s with ⟨s', c | f⟩ <;> rw [hframe] at ht <;> obtain rfl := ht
    · exact .inl ⟨t, s.dst, c, receiveLoop_of_receiveFrame_error hframe⟩
    rw [receiveLoop_succ, hframe, andThen_ok]
    by_cases hsrc : fromExpected s.dst f.header.src
    · rw [hostMatch_expected (s := { s with transport := t }) hset hsrc, andThen_ok, if_pos rfl]
      rcases hcheck : checkResponse { s with transport := t, dst := f.header.src } f with c | _
      · exact .inl ⟨t, f.header.src, c, finishExchange_refused k hcheck⟩
      · exact .inr ⟨f, t, finishExchange_accepted k hcheck⟩
    · rw [hostMatch_foreign (s := { s with transport := t }) hset hsrc, andThen_ok]
      exact ih (s := { s with transport := t }) hset

theorem ends_exchange (k : CommandKind) (s : State) :
    Ends k (loadAddresses s s.sessSrc s.sessDst) (exchange k s) := by
  rw [exchange_eq]
  rcases hsend : s.transport.send (requestBytes s k) with ⟨t, e | _⟩
  · rw [onTransport_error (s := loadedWith s s.transport) hsend, andThen_error]
    exact .inl ⟨t, s.sessDst, _, rfl⟩
  · rw [onTransport_ok (s := loadedWith s s.transport) hsend, andThen_ok]
    exact ends_receiveLoop k 5 (s := loadedWith s t) rfl

/-- Settles O59: an exchange answers a next state, which is one of its two ends. -/
theorem exchangeAlwaysCompletes : Obligations.ExchangeAlwaysCompletes := by
  intro k s
  obtain ⟨t, ht⟩ := exec_instrOf_next k s
  have hexec := ht
  rw [exec_instrOf] at ht
  refine ⟨t, hexec, ?_⟩
  obtain ⟨u, dst, c, h⟩ | ⟨f, u, h⟩ := ends_exchange k s <;> rw [h] at ht
  · rw [raise_eq_next ht]
    exact ⟨rfl, rfl, .inr ⟨c, rfl, fun _ => ⟨rfl, rfl⟩⟩⟩
  · rw [reportExchange_operational fun _ hc => decodeResponse_error hc] at ht
    cases ht
    refine ⟨rfl, rfl, ?_⟩
    rcases decodeResponse (storedResponse f { loadAddresses s s.sessSrc s.sessDst with transport := u }) k with c | d
    · exact .inr ⟨c, rfl, nofun⟩
    · exact .inl ⟨⟨d, rfl⟩, rfl, rfl, rfl⟩

/-! ## The calls of an exchange (R138, R140) -/

/-- From one Transport to another the host made at most so many reads and writes, and wrote nothing but `frame`. -/
def Makes (frame : Bytes) (reads writes : Nat) (t u : Transport) : Prop :=
  ∃ made, u.log = t.log ++ made ∧ made.countP isRead ≤ reads ∧ made.countP isWrite ≤ writes ∧
    ∀ b, .write b ∈ made → b = frame

section
variable {frame : Bytes} {r r' w w' : Nat} {t u v : Transport}

theorem makes_none (hlog : u.log = t.log) : Makes frame r w t u :=
  ⟨[], by simp [hlog], Nat.zero_le _, Nat.zero_le _, by simp⟩

theorem makes_call (c : TransportCall) (hlog : u.log = t.log ++ [c]) (hr : [c].countP isRead ≤ r)
    (hw : [c].countP isWrite ≤ w) (hb : ∀ b, c = .write b → b = frame) : Makes frame r w t u :=
  ⟨[c], hlog, hr, hw, fun b hm => hb b (List.mem_singleton.1 hm).symm⟩

theorem makes_trans (h : Makes frame r w t u) (h' : Makes frame r' w' u v) : Makes frame (r + r') (w + w') t v := by
  obtain ⟨a, hlog, hr, hw, hb⟩ := h
  obtain ⟨a', hlog', hr', hw', hb'⟩ := h'
  refine ⟨a ++ a', by rw [hlog', hlog, List.append_assoc], ?_, ?_, fun b hm => ?_⟩
  · rw [List.countP_append]
    exact Nat.add_le_add hr hr'
  · rw [List.countP_append]
    exact Nat.add_le_add hw hw'
  · exact (List.mem_append.1 hm).elim (hb b) (hb' b)

theorem makes_mono (h : Makes frame r w t u) (hr : r ≤ r') (hw : w ≤ w') : Makes frame r' w' t u := by
  obtain ⟨a, hlog, har, haw, hb⟩ := h
  exact ⟨a, hlog, har.trans hr, haw.trans hw, hb⟩

theorem makes_openLine (t : Transport) : Makes frame 0 0 t t.openLine.1 := by
  have hlog := t.call_log .openLine
  unfold Transport.openLine
  split
  · exact makes_none rfl
  · split <;> exact makes_call .openLine (by simp_all) (by decide) (by decide) nofun

theorem makes_configure (t : Transport) : Makes frame 0 0 t t.configure.1 := by
  have hlog := t.call_log .configure
  unfold Transport.configure
  split <;> exact makes_call .configure (by simp_all) (by decide) (by decide) nofun

theorem makes_ensureReady (t : Transport) : Makes frame 0 0 t t.ensureReady.1 := by
  have hopen := makes_openLine (frame := frame) t
  unfold Transport.ensureReady
  rcases h : t.openLine with ⟨u, e | _⟩ <;> rw [h] at hopen
  · exact hopen
  · dsimp only
    split
    · exact hopen
    · exact makes_trans hopen (makes_configure u)

theorem makes_flush (t : Transport) : Makes frame 0 0 t t.flush.1 :=
  makes_call .flush t.flush_log (by decide) (by decide) nofun

theorem makes_write (t : Transport) : Makes frame 0 1 t (t.write frame).1 :=
  makes_call (.write frame) (t.write_log frame) (by simp [isRead]) (by simp [isWrite]) (by rintro b ⟨⟩; rfl)

theorem makes_read (size : Nat) (t : Transport) : Makes frame 1 0 t (t.read size).1 :=
  makes_call (.read size) (t.read_log size) (by simp [isRead]) (by simp [isWrite]) nofun

/-- One action after another makes the calls of both. -/
theorem makes_andThen {α β : Type} {p : State × Except Cause α} {next : α → State → State × Except Cause β}
    (hp : Makes frame r w t p.1.transport)
    (hnext : ∀ a s, Makes frame r' w' s.transport (next a s).1.transport) :
    Makes frame (r + r') (w + w') t (andThen p next).1.transport := by
  obtain ⟨s, c | a⟩ := p
  · exact makes_mono hp (Nat.le_add_right ..) (Nat.le_add_right ..)
  · exact makes_trans hp (hnext a s)

/-- An action that leaves the Transport alone adds no call. -/
theorem makes_andThen_silent {α β : Type} {p : State × Except Cause α} {next : α → State → State × Except Cause β}
    (hp : p.1.transport = t) (hnext : ∀ a s, Makes frame r w s.transport (next a s).1.transport) :
    Makes frame r w t (andThen p next).1.transport := by
  obtain ⟨s, c | a⟩ := p
  · exact makes_none (congrArg Transport.log hp)
  · exact hp ▸ hnext a s

theorem makes_onTransport {α : Type} {f : Transport → Transport × Except TransportError α} {s : State}
    (h : Makes frame r w s.transport (f s.transport).1) :
    Makes frame r w s.transport (onTransport f s).1.transport := h

theorem makes_send (s : State) :
    Makes frame 0 1 s.transport (onTransport (Transport.send frame) s).1.transport := by
  rw [onTransport_send]
  refine makes_andThen (r := 0) (r' := 0) (w := 0) (w' := 1) (makes_onTransport (makes_ensureReady _)) fun _ s => ?_
  refine makes_andThen (r := 0) (r' := 0) (w := 0) (w' := 1) (makes_onTransport (makes_flush _)) fun _ s => ?_
  exact makes_andThen (r' := 0) (w' := 0) (makes_onTransport (makes_write _)) fun _ s => makes_none rfl

theorem makes_receiveFrame (s : State) : Makes frame 2 0 s.transport (receiveFrame s).1.transport := by
  refine makes_andThen (r := 1) (r' := 1) (w := 0) (w' := 0) (makes_onTransport (makes_read _ _)) fun h s => ?_
  refine makes_andThen_silent rfl fun header s => ?_
  refine makes_andThen (r := 1) (r' := 0) (w := 0) (w' := 0) (makes_onTransport (makes_read _ _)) fun b s => ?_
  exact makes_andThen_silent rfl fun body s => makes_none rfl

theorem hostMatch_transport (src : Addr) (s : State) : (hostMatch src s).1.transport = s.transport := by
  unfold hostMatch
  obtain ⟨-, h⟩ | ⟨-, -, h⟩ | ⟨-, -, h⟩ := matchSource_cases s src <;> rw [h]

theorem hostParse_transport (f : Frame) (s : State) : (hostParse f s).1.transport = s.transport := by
  unfold hostParse
  obtain ⟨c, -, h⟩ | ⟨-, h⟩ := parseResponse_cases s f
  · rw [h]
  · rw [h]
    rfl

theorem hostStoreSession_transport (s : State) : (hostStoreSession s).1.transport = s.transport := by
  unfold hostStoreSession
  split <;> rfl

theorem makes_finishExchange (k : CommandKind) (f : Frame) (s : State) :
    Makes frame r w s.transport (finishExchange k f s).1.transport := by
  refine makes_andThen_silent (hostParse_transport f s) fun _ s => ?_
  exact makes_andThen_silent (hostStoreSession_transport s) fun _ s => makes_none rfl

/-- Each attempt makes at most two reads. -/
theorem makes_receiveLoop (k : CommandKind) (n : Nat) (s : State) :
    Makes frame (2 * n) 0 s.transport (receiveLoop k n s).1.transport := by
  induction n generalizing s with
  | zero => exact makes_none rfl
  | succ n ih =>
    rw [receiveLoop_succ, Nat.mul_succ, Nat.add_comm]
    refine makes_andThen (w := 0) (w' := 0) (makes_receiveFrame s) fun f s => ?_
    refine makes_andThen_silent (hostMatch_transport _ s) fun verdict s => ?_
    split
    · exact makes_finishExchange k f s
    · exact ih s

theorem makes_exchange (k : CommandKind) (s : State) :
    Makes (requestBytes s k) 10 1 s.transport (exchange k s).1.transport := by
  rw [exchange_eq]
  exact makes_andThen (r := 0) (w := 1) (makes_send (loadedWith s s.transport)) fun _ s => makes_receiveLoop k 5 s

end

/-- Settles O60: the report keeps the Transport of the exchange, whose calls are counted step by step. -/
theorem exchangeReadsAtMostFiveFrames : Obligations.ExchangeReadsAtMostFiveFrames := by
  intro k s t h
  rw [exec_instrOf] at h
  have hmade := makes_exchange k s
  rw [show (exchange k s).1.transport = t.transport by rw [report_eq_next h]] at hmade
  exact hmade

end Sys2Proof.Machine
end

section
/-! SUPPORT. The family 60_exceptions.md: the fault `AddressUnset` (spec/60_exceptions.md R151, R152). A fault is the
answer of a guarded read, so the register it names is the one that read names; a run that starts with it stays in it. -/

namespace Sys2Proof.Machine

open Sys2Proof.Claim

/-! ## The register a fault names (R151) -/

/-- What a recorded register name says of the flags (R151; `both`: log 13). -/
def NamesUnset (s : State) : UnsetRegister → Prop
  | .src => s.srcSet = false ∧ s.dstSet = true
  | .dst => s.dstSet = false
  | .both => s.srcSet = false ∧ s.dstSet = false

theorem namesUnset_of_readDst {s : State} {w : UnsetRegister} (h : readDst s = .error (.addressUnset w)) :
    NamesUnset s w := by
  cases hdst : s.dstSet with
  | true => cases (readDst_set hdst).symm.trans h
  | false =>
    cases (readDst_unset hdst).symm.trans h
    exact hdst

theorem namesUnset_of_readAddresses {s : State} {w : UnsetRegister}
    (h : readAddresses s = .error (.addressUnset w)) : NamesUnset s w := by
  unfold readAddresses at h
  split at h
  case h_1 => cases h
  case h_2 hsrc hdst => cases h; exact ⟨hsrc, hdst⟩
  case h_3 hsrc hdst => cases h; exact hdst
  case h_4 hsrc hdst => cases h; exact ⟨hsrc, hdst⟩

/-- The composer passes on the error of its guarded read. -/
theorem composeFrame_of_readAddresses_error {s : State} {c : Cause} (h : readAddresses s = .error c) (code : Byte)
    (data : Bytes) : composeFrame s code data = .error c := by
  simp [composeFrame, h]

/-- An `AddressUnset` fault is the error of the guarded read its instruction makes (R23). -/
theorem guardedRead_of_fault {i : Instr} {s : State} {w : UnsetRegister} (h : exec i s = .fault (.addressUnset w)) :
    readAddresses s = .error (.addressUnset w) ∨ readDst s = .error (.addressUnset w) := by
  have hunset : readsUnset s i = true := (faultExactlyOnUnsetAddress i s).1.2 ⟨w, h⟩
  cases i
  case rdaddr =>
    obtain ⟨w', hread⟩ := readAddresses_unset hunset
    rw [show exec .rdaddr s = .fault (.addressUnset w') by simp [exec, execRdaddr, hread]] at h
    cases h
    exact .inl hread
  case compose code data =>
    obtain ⟨w', hread⟩ := readAddresses_unset hunset
    rw [exec_compose, composeFrame_of_readAddresses_error hread] at h
    cases h
    exact .inl hread
  case srcmatch src =>
    have hdst : s.dstSet = false := by simpa [readsUnset] using hunset
    cases (exec_srcmatch_unset hdst src).symm.trans h
    exact .inr (readDst_unset hdst)
  case parse =>
    have hdst : s.dstSet = false := by simpa [readsUnset] using hunset
    cases (exec_parse_error (checkResponse_unset hdst _)).symm.trans h
    exact .inr (readDst_unset hdst)
  all_goals cases hunset

/-- Settles O14: the fault comes from a guarded read, and either read names the flags it found false. -/
theorem unsetFaultNamesTheRegister : Obligations.UnsetFaultNamesTheRegister := by
  intro i s w h
  have hnames : NamesUnset s w := (guardedRead_of_fault h).elim namesUnset_of_readAddresses namesUnset_of_readDst
  refine ⟨?_, ?_, ?_⟩ <;> rintro rfl <;> exact hnames

/-! ## A fault ends every run (R152) -/

/-- A run whose first step faults ends in that fault, however many steps it is given. -/
theorem run_succ_of_step_fault {s : State} {f : Fault} (h : step s = .fault f) (n : Nat) :
    Host.Core.run core (n + 1) s = .fault f := by
  have hcore : core.step s = .fault f := h
  simp only [Host.Core.run, hcore]

/-- Which flags an instruction's guarded read needs does not depend on the queue. -/
theorem readsUnset_setPending (s : State) (rest : List Issue) (i : Instr) :
    readsUnset { s with pending := rest } i = readsUnset s i := by
  cases i <;> rfl

/-- Settles O15: the step runs the oldest issue, which faults, and the run stops there. -/
theorem faultIsNeverCleared : Obligations.FaultIsNeverCleared := by
  intro s issue rest i hqueue hdecode hunset
  obtain ⟨w, hfault⟩ := fault_of_readsUnset ((readsUnset_setPending s rest i).trans hunset)
  exact ⟨w, run_succ_of_step_fault ((step_ok hqueue hdecode).trans hfault)⟩

end Sys2Proof.Machine
end

section
/-! SUPPORT. The family 70_reset_and_hazards.md: the state after reset (spec/70_reset_and_hazards.md R166). -/

namespace Sys2Proof.Machine

/-- The high byte the reset table holds at an index is the open parameter's (R29). -/
theorem reset_rtableHi_getElem (i : Fin 256) : State.reset.rtableHi[i] = Config.rtableHi i :=
  Vector.getElem_ofFn i.isLt

/-- Settles O43: the registers hold their table's values by definition, and an entry read from the table is
`RTABLE_HI(i) * 256 + i` (R27). -/
theorem resetStateAsSpecified : Obligations.ResetStateAsSpecified := by
  refine ⟨rfl, rfl, rfl, rfl, fun i => ?_⟩
  rw [romRead_toNat, reset_rtableHi_getElem]

/-- The spec's default order of the modes is a bijection (R10, R124). -/
theorem modeTableDefault_nodup : Config.modeTableDefault.toList.Nodup := by decide

/-- Settles O44: both flags are false, no response is stored, and the mode table is the spec's default. -/
theorem invariantHoldsAtReset : Obligations.InvariantHoldsAtReset where
  flagsEqual := rfl
  responseTogether := rfl
  responseShort _ hdata := nomatch hdata
  responseAddressed hstored := nomatch hstored
  modesDistinct := modeTableDefault_nodup

end Sys2Proof.Machine
end
